-- ==== Sys2Proof/Word.lean ====
section
/-! DEFINITION. The words of the UART core and the plain two-channel record.

00_scope.md rules R2, R10, R11 and R14: bytes, command words, tokens, rates, and the two channels. -/

namespace Sys2Proof

/-- A data byte: 8 bits, `BYTE_BITS = 8` (R9, R10). -/
abbrev Byte := BitVec 8

/-- A command word or a response word: 32 bits (R70, R82). -/
abbrev Word := BitVec 32

/-- A receive-callback token: 8 bits, `TOKEN_BITS = 8` (R9, R14). -/
abbrev Token := BitVec 8

/-- The rate operand of SETBAUD: 24 bits, `RATE_BITS = 24` (R9, R74). -/
abbrev Rate := BitVec 24

/-- The channel selector field `CH` of a command word: two bits, so that 2 and 3 can be spelled (R72). -/
abbrev Sel := BitVec 2

/-- The two channels of the UART core (R2). -/
inductive Chan where
  | c0
  | c1
deriving DecidableEq, Repr

/-- The other channel. -/
def Chan.other : Chan → Chan
  | .c0 => .c1
  | .c1 => .c0

/-- One value for each channel: `x[c]` of the spec is `x.get c`, and no state is shared across channels (R2, R12). -/
structure PerChan (α : Type) where
  c0 : α
  c1 : α
deriving DecidableEq, Repr

/-- Reading `x[c]` (R12). -/
def PerChan.get {α : Type} (x : PerChan α) : Chan → α
  | .c0 => x.c0
  | .c1 => x.c1

/-- Writing `x[c] <- v` (R12). -/
def PerChan.set {α : Type} (x : PerChan α) (c : Chan) (v : α) : PerChan α :=
  match c with
  | .c0 => { x with c0 := v }
  | .c1 => { x with c1 := v }

end Sys2Proof
end

