-- ==== Sys2Proof/Config.lean ====
section
/-! DEFINITION. The parameters of the model (00_scope.md rule R9) and its free values.

The OPEN parameters are plain data, one record `Config`; a state carries it in its field `cfg`, no step
changes it, and a claim about every state therefore holds for every value of every parameter.
The free values are opaque constants: nothing can evaluate them. -/

namespace Sys2Proof

/-- `OVF_AT_MAX`: what an increment of the overflow counter at its maximum does (R9, R195). OPEN in the spec. -/
inductive OvfAtMax where
  | wrap
  | saturate
deriving DecidableEq, Repr

/-- `ENV_MODEL`: which UART device model the environment follows (R9, 60_exceptions.md section 5). OPEN in the spec. -/
inductive EnvModel where
  | reference
  | free
deriving DecidableEq, Repr

/-- The parameters of R9 that are not fixed by the spec. `NCH`, `BYTE_BITS`, `TOKEN_BITS`, `COUNT_BITS` and
`RATE_BITS` are fixed there and are the widths of the types of Word.lean and Syntax.lean. -/
structure Config where
  /-- `CAP_MAX`, the largest capacity the implementation accepts. -/
  capMax      : Nat
  /-- `CAP_TX(c)`. -/
  capTx       : PerChan Nat
  /-- `CAP_RX(c)`. -/
  capRx       : PerChan Nat
  /-- `OVF_WIDTH`. -/
  ovfWidth    : Nat
  /-- `OVF_AT_MAX`. -/
  ovfAtMax    : OvfAtMax
  /-- `DEFAULT_BAUD`. -/
  defaultBaud : Nat
  /-- `ENV_MODEL`. -/
  envModel    : EnvModel
deriving DecidableEq, Repr

/-- The ranges R9 gives the parameters. -/
abbrev Config.wf (c : Config) : Prop :=
  1 ≤ c.capMax ∧ c.capTx.c0 ≤ c.capMax ∧ c.capTx.c1 ≤ c.capMax ∧ c.capRx.c0 ≤ c.capMax ∧ c.capRx.c1 ≤ c.capMax ∧
  1 ≤ c.ovfWidth ∧ c.ovfWidth ≤ 28 ∧ 1 ≤ c.defaultBaud

/-- The largest value of the overflow counter, `2^OVF_WIDTH - 1` (R25). -/
def Config.ovfMax (c : Config) : Nat := 2 ^ c.ovfWidth - 1

/-- Configuration K of 95_test_vectors.md section 0 ("These values are choices for the tests"): the value
`State.reset` gives the field `cfg`. DESIGN CHOICE, log entry 1; unsafe for a claim that rests on it. -/
def Config.exampleK : Config :=
  { capMax := 8, capTx := ⟨8, 2⟩, capRx := ⟨8, 2⟩, ovfWidth := 8, ovfAtMax := .saturate,
    defaultBaud := 115200, envModel := .reference }

/-- FREE VALUE: what a ring cell that nothing has written since INIT or a flush holds (R31, U11 of
93_implementation_defined.md: "any value"), applied to the state's counter `draws`. Log entry 2. -/
opaque Config.freeByte : Nat → Byte

/-- FREE VALUE: `hal[c].baud` after a hardware reset taken during a run (R35, R271, U14: "any value"), applied
to the state's counter `draws`. Log entry 3. -/
opaque Config.freeBaud : Nat → Nat

end Sys2Proof
end

