-- ==== Sys2Proof/Syntax.lean ====
section
/-! DEFINITION. The abstract syntax: one constructor per row of spec/opcode_table.json.

Twelve commands of the call context (30_encoding.md rule R71), four hardware event vectors (R76), and the
illegal command words (R77), which the table lists as "(reserved)". -/

namespace Sys2Proof

/-- An instruction of the opcode table. `ch` is the channel selector `CH`, with 2 and 3 out of range (R72). -/
inductive Instr where
  /-- INIT `ch` (R212), format N. -/
  | init     (ch : Sel)
  /-- SETCB `ch`, format K (R130): `none` is `INS = 0`, `some t` is `INS = 1, TOK = t` (R74). -/
  | setcb    (ch : Sel) (cb : Option Token)
  /-- SETBAUD `ch, RATE` (R214), format R. -/
  | setbaud  (ch : Sel) (rate : Rate)
  /-- SENDB `ch, b` (R122), format B. -/
  | sendb    (ch : Sel) (b : Byte)
  /-- ENQB `ch, b` (R123), format B. -/
  | enqb     (ch : Sel) (b : Byte)
  /-- SENDBLK `ch, p` (R125), format L; the payload has `COUNT` bytes (R75). -/
  | sendblk  (ch : Sel) (p : List Byte)
  /-- STARTBUF `ch` (R124), format N. -/
  | startbuf (ch : Sel)
  /-- RECV `ch` (R126), format N. -/
  | recv     (ch : Sel)
  /-- FLUSHRX `ch` (R127), format N. -/
  | flushrx  (ch : Sel)
  /-- RXEMPTY `ch` (R128), format N. -/
  | rxempty  (ch : Sel)
  /-- TXPEND `ch` (R129), format N. -/
  | txpend   (ch : Sel)
  /-- OVFCNT `ch` (R131), format N. -/
  | ovfcnt   (ch : Sel)
  /-- Event vector 0: receive-complete of channel 0 (R76, R191). -/
  | rxc0
  /-- Event vector 1: transmit-complete of channel 0 (R76, R171). -/
  | txc0
  /-- Event vector 2: receive-complete of channel 1 (R76, R191). -/
  | rxc1
  /-- Event vector 3: transmit-complete of channel 1 (R76, R171). -/
  | txc1
  /-- The table's "(reserved)": an illegal command word (R77), kept whole. -/
  | reserved (w : Word)
deriving DecidableEq, Repr

/-- One command as the host hands it to the call context: the command word `w` and, for a SENDBLK, the payload
`p` the transport delivered (R53, R75, the arguments of `issue(w, p)` in R210). -/
structure Delivery where
  word    : Word
  payload : List Byte
deriving DecidableEq, Repr

/-- What a row of the opcode table is spelled in: a command word with its payload, or a 2-bit event vector (R70, R76). -/
inductive Code where
  | command (d : Delivery)
  | vector  (ev : BitVec 2)
deriving DecidableEq, Repr

end Sys2Proof
end

