-- ==== Sys2Proof/Decode.lean ====
section
/-! DEFINITION. Decoder and encoder (30_encoding.md rules R70 to R77 and R85; the byte form of 20_memory.md rule R54).

Every command word decodes: an illegal one to `reserved`. Rejections have names: `DecodeError`. -/

namespace Sys2Proof

/-! ### Fields of the command word (R70, R85) -/

/-- `OP = w[31:28]`. -/
def opField (w : Word) : BitVec 4 := w.extractLsb' 28 4

/-- `RSV = w[27:26]`. -/
def rsvField (w : Word) : BitVec 2 := w.extractLsb' 26 2

/-- `CH = w[25:24]`. -/
def chField (w : Word) : Sel := w.extractLsb' 24 2

/-- `ARG = w[23:0]`. -/
def argField (w : Word) : BitVec 24 := w.extractLsb' 0 24

/-- `BYTE = TOK = ARG[7:0]`. -/
def byteField (w : Word) : Byte := w.extractLsb' 0 8

/-- `INS = ARG[8]`. -/
def insField (w : Word) : Bool := w.getLsbD 8

/-- `RATE = ARG[23:0]`. -/
def rateField (w : Word) : Rate := argField w

/-- `COUNT = ARG[15:0]`. -/
def countField (w : Word) : BitVec 16 := w.extractLsb' 0 16

/-! ### Formats and illegal words (R71, R74, R77) -/

/-- The five operand formats (R74). -/
inductive Format where
  | none
  | byte
  | callback
  | rate
  | block
deriving DecidableEq, Repr

/-- The format of an operation code; `Option.none` for the reserved codes 0x0, 0xD, 0xE and 0xF (R71, R77 (a)). -/
def formatOf (op : BitVec 4) : Option Format :=
  match op.toNat with
  | 0x1 => some .none
  | 0x2 => some .callback
  | 0x3 => some .rate
  | 0x4 => some .byte
  | 0x5 => some .byte
  | 0x6 => some .block
  | 0x7 => some .none
  | 0x8 => some .none
  | 0x9 => some .none
  | 0xA => some .none
  | 0xB => some .none
  | 0xC => some .none
  | _   => Option.none

/-- The constraint the format puts on `ARG` (R74). -/
def argAllowed (f : Format) (w : Word) : Bool :=
  match f with
  | .none     => argField w == 0
  | .byte     => w.extractLsb' 8 16 == 0
  | .callback => w.extractLsb' 9 15 == 0 && (insField w || byteField w == 0)
  | .rate     => rateField w != 0
  | .block    => w.extractLsb' 16 8 == 0

/-- A command word is illegal when its `OP` is reserved, its `RSV` is not 0, or its `ARG` breaks its format (R77). -/
def illegal (w : Word) : Bool :=
  match formatOf (opField w) with
  | Option.none => true
  | some f      => rsvField w != 0 || !argAllowed f w

/-- How many payload bytes follow a command word: `COUNT` for a SENDBLK word that is not illegal, else none (R75). -/
def payloadLength (w : Word) : Nat :=
  if !illegal w && opField w == 6 then (countField w).toNat else 0

/-! ### Decoding -/

/-- Why bytes or a delivery are no instruction. -/
inductive DecodeError where
  /-- A byte stream that ends inside the 4 bytes of a command word (R54, R75). -/
  | truncatedWord
  /-- A byte stream that ends inside the payload of a SENDBLK (R75; X2 of R242). -/
  | truncatedPayload
  /-- A SENDBLK delivered with a number of payload bytes other than `COUNT` (X2 of R242). -/
  | payloadMismatch
deriving DecidableEq, Repr

/-- The callback operand of format K: `INS = 1` installs `TOK`, `INS = 0` clears (R74). -/
def callbackField (w : Word) : Option Token :=
  if insField w then some (byteField w) else Option.none

/-- The command that word `w` with delivered payload `p` stands for (R71, R75, R77, R85). Only a SENDBLK reads
the payload: any other word is one whole command of 4 bytes (DESIGN CHOICE, log entry 13). -/
def decodeCommand (w : Word) (p : List Byte) : Except DecodeError Instr :=
  if illegal w then .ok (.reserved w) else
  match (opField w).toNat with
  | 0x1 => .ok (.init (chField w))
  | 0x2 => .ok (.setcb (chField w) (callbackField w))
  | 0x3 => .ok (.setbaud (chField w) (rateField w))
  | 0x4 => .ok (.sendb (chField w) (byteField w))
  | 0x5 => .ok (.enqb (chField w) (byteField w))
  | 0x6 => if p.length = (countField w).toNat then .ok (.sendblk (chField w) p) else .error .payloadMismatch
  | 0x7 => .ok (.startbuf (chField w))
  | 0x8 => .ok (.recv (chField w))
  | 0x9 => .ok (.flushrx (chField w))
  | 0xA => .ok (.rxempty (chField w))
  | 0xB => .ok (.txpend (chField w))
  | 0xC => .ok (.ovfcnt (chField w))
  | _   => .ok (.reserved w)

/-- The handler an event vector names: `EV[1]` is the channel, `EV[0]` the kind (R76). Every vector is defined. -/
def decodeVector (ev : BitVec 2) : Instr :=
  match ev.toNat with
  | 0 => .rxc0
  | 1 => .txc0
  | 2 => .rxc1
  | _ => .txc1

/-- The decoder. -/
def decode : Code → Except DecodeError Instr
  | .command d => decodeCommand d.word d.payload
  | .vector ev => .ok (decodeVector ev)

/-! ### The byte form: command words least significant byte first, payload after its word (R54) -/

/-- A command word from its four bytes, the least significant first (R54). -/
def wordOfBytes (b0 b1 b2 b3 : Byte) : Word :=
  b3.setWidth 32 <<< 24 ||| b2.setWidth 32 <<< 16 ||| b1.setWidth 32 <<< 8 ||| b0.setWidth 32

/-- The four bytes of a command word, the least significant first (R54). -/
def bytesOfWord (w : Word) : List Byte :=
  [w.extractLsb' 0 8, w.extractLsb' 8 8, w.extractLsb' 16 8, w.extractLsb' 24 8]

/-- A delivery as a transport that carries bytes carries it (R54). -/
def Delivery.bytes (d : Delivery) : List Byte := bytesOfWord d.word ++ d.payload

/-- Take one command off a byte stream: 4 bytes, and `COUNT` more after a SENDBLK word that is not illegal (R75). -/
def readDelivery : List Byte → Except DecodeError (Delivery × List Byte)
  | b0 :: b1 :: b2 :: b3 :: rest =>
    let w := wordOfBytes b0 b1 b2 b3
    if rest.length < payloadLength w then .error .truncatedPayload
    else .ok (⟨w, rest.take (payloadLength w)⟩, rest.drop (payloadLength w))
  | _ => .error .truncatedWord

/-- Decode one command off a byte stream: the instruction and the bytes after it, or a named rejection. -/
def decodeBytes (bs : List Byte) : Except DecodeError (Instr × List Byte) :=
  match readDelivery bs with
  | .error e => .error e
  | .ok (d, rest) =>
    match decode (.command d) with
    | .error e => .error e
    | .ok i => .ok (i, rest)

/-! ### Encoding (R70, R71, R74) -/

/-- The command word with the given `OP`, `CH` and `ARG`, and `RSV = 0` (R70, R73). -/
def commandWord (op : BitVec 4) (ch : Sel) (arg : BitVec 24) : Word :=
  op.setWidth 32 <<< 28 ||| ch.setWidth 32 <<< 24 ||| arg.setWidth 32

/-- `ARG` of format B (R74). -/
def byteArg (b : Byte) : BitVec 24 := b.setWidth 24

/-- `ARG` of format K (R74). -/
def callbackArg : Option Token → BitVec 24
  | Option.none => 0
  | some t      => 0x100 ||| t.setWidth 24

/-- `ARG` of format L (R74). -/
def blockArg (n : Nat) : BitVec 24 := (BitVec.ofNat 16 n).setWidth 24

/-- The words of an instruction. -/
def encode : Instr → Code
  | .init ch      => .command ⟨commandWord 0x1 ch 0, []⟩
  | .setcb ch cb  => .command ⟨commandWord 0x2 ch (callbackArg cb), []⟩
  | .setbaud ch r => .command ⟨commandWord 0x3 ch r, []⟩
  | .sendb ch b   => .command ⟨commandWord 0x4 ch (byteArg b), []⟩
  | .enqb ch b    => .command ⟨commandWord 0x5 ch (byteArg b), []⟩
  | .sendblk ch p => .command ⟨commandWord 0x6 ch (blockArg p.length), p⟩
  | .startbuf ch  => .command ⟨commandWord 0x7 ch 0, []⟩
  | .recv ch      => .command ⟨commandWord 0x8 ch 0, []⟩
  | .flushrx ch   => .command ⟨commandWord 0x9 ch 0, []⟩
  | .rxempty ch   => .command ⟨commandWord 0xA ch 0, []⟩
  | .txpend ch    => .command ⟨commandWord 0xB ch 0, []⟩
  | .ovfcnt ch    => .command ⟨commandWord 0xC ch 0, []⟩
  | .rxc0         => .vector 0
  | .txc0         => .vector 1
  | .rxc1         => .vector 2
  | .txc1         => .vector 3
  | .reserved w   => .command ⟨w, []⟩

/-! ### Textual form (R79, R86) -/

/-- A number in decimal, and the channel of a command (R79). -/
def selText (ch : Sel) : String := toString ch.toNat

/-- A byte operand in decimal. -/
def byteText (b : Byte) : String := toString b.toNat

/-- The textual form of a command (R79) and of a handler run (R86); an illegal word has none. -/
def Instr.text : Instr → Option String
  | .init ch            => some ("INIT " ++ selText ch)
  | .setcb ch (some t)  => some ("SETCB " ++ selText ch ++ ", " ++ byteText t)
  | .setcb ch .none     => some ("SETCB " ++ selText ch ++ ", none")
  | .setbaud ch r       => some ("SETBAUD " ++ selText ch ++ ", " ++ toString r.toNat)
  | .sendb ch b         => some ("SENDB " ++ selText ch ++ ", " ++ byteText b)
  | .enqb ch b          => some ("ENQB " ++ selText ch ++ ", " ++ byteText b)
  | .sendblk ch p       => some ("SENDBLK " ++ selText ch ++ ", [" ++ String.intercalate ", " (p.map byteText) ++ "]")
  | .startbuf ch        => some ("STARTBUF " ++ selText ch)
  | .recv ch            => some ("RECV " ++ selText ch)
  | .flushrx ch         => some ("FLUSHRX " ++ selText ch)
  | .rxempty ch         => some ("RXEMPTY " ++ selText ch)
  | .txpend ch          => some ("TXPEND " ++ selText ch)
  | .ovfcnt ch          => some ("OVFCNT " ++ selText ch)
  | .rxc0               => some "@RXC 0"
  | .txc0               => some "@TXC 0"
  | .rxc1               => some "@RXC 1"
  | .txc1               => some "@TXC 1"
  | .reserved _         => Option.none

/-! ### The opcode table as data -/

/-- One command row of spec/opcode_table.json: a word is of the row when its bits under `mask` are `pat`. -/
structure OpcodeRow where
  pat  : Word
  mask : Word
deriving DecidableEq, Repr

/-- The twelve command rows of spec/opcode_table.json, `match` and `mask` as the table has them. -/
def opcodeRows : List OpcodeRow :=
  [⟨0x10000000, 0xFCFFFFFF⟩, ⟨0x20000000, 0xFCFFFE00⟩, ⟨0x30000000, 0xFC000000⟩, ⟨0x40000000, 0xFCFFFF00⟩,
   ⟨0x50000000, 0xFCFFFF00⟩, ⟨0x60000000, 0xFCFF0000⟩, ⟨0x70000000, 0xFCFFFFFF⟩, ⟨0x80000000, 0xFCFFFFFF⟩,
   ⟨0x90000000, 0xFCFFFFFF⟩, ⟨0xA0000000, 0xFCFFFFFF⟩, ⟨0xB0000000, 0xFCFFFFFF⟩, ⟨0xC0000000, 0xFCFFFFFF⟩]

/-- The word is of some command row of the table. -/
def inTable (w : Word) : Bool := opcodeRows.any fun r => decide (w &&& r.mask = r.pat)

/-- The two constraints the table states in a note beside `match` and `mask`: `INS = 0` with `TOK != 0` (SETCB) and
`RATE = 0` (SETBAUD) are illegal. -/
def tableNote (w : Word) : Bool :=
  (opField w == 2 && !insField w && byteField w != 0) || (opField w == 3 && rateField w == 0)

/-! ### The host's probe -/

/-- An instruction of `nbits` bits `w`, laid out as bytes, the first least significant, with zeros above `nbits`: the
4 bytes of the word and as many payload bytes as the word asks for (R54, R75). -/
def tableBytes (w : Nat) : List Byte :=
  (List.range (4 + payloadLength (BitVec.ofNat 32 w))).map fun j => BitVec.ofNat 8 (w >>> (8 * j))

/-- The instruction the decoder reads from a table row's bits: a row of fewer than 32 bits is an event vector (R76),
any other a command word with its payload (R70, R75). -/
def decodeTableWord (nbits w : Nat) : Option Instr :=
  if nbits < 32 then
    if w < 4 then some (decodeVector (BitVec.ofNat 2 w)) else Option.none
  else
    match decodeBytes (tableBytes (w % 2 ^ nbits)) with
    | .ok (i, _) => some i
    | .error _   => Option.none

end Sys2Proof
end

