-- ==== Sys2Proof/Machine/State.lean ====
section
/-! DEFINITION. The state of the UART core, its two devices, its observation, and its inputs.

10_state.md rules R20 to R38, 60_exceptions.md rule R250. Plain data. The three last fields of `State` are the
model's own: the host's command sequence (R211), the interleaving (R235) and the counter of free values. -/

namespace Sys2Proof.Machine

/-- The fault codes of R241. A fault is recorded in the state by the transition that raises it (R240), which is a
next state; the step of a faulted state answers `Outcome.fault` with the recorded code, since no transition of any
agent is enabled in it. Only a hardware reset leaves a faulted state (R270). All are safe: the machine stops where
the document gives no behaviour. -/
inductive Fault where
  /-- Code 1. Raised by STARTBUF k1 and SENDBLK k(n+2): `pop_front` on an empty ring (R105). Safe. -/
  | popEmpty
  /-- Code 2. Raised by any command but INIT on an uninitialised channel (R215), and by any other read of a field of
  an uninitialised channel (R35). Safe. -/
  | uninit
  /-- Code 3. Raised by INIT on an initialised channel (R213). Safe. -/
  | reinit
  /-- Code 4. Raised by SETBAUD with a byte in flight or a buffered transfer active (R214). Safe. -/
  | baudInFlight
  /-- Code 5. Raised by a write to a full TDR in the reference device model (R256). Safe. -/
  | tdrOverrun
  /-- Code 6. Raised by a read of an empty RDR (R257). Safe. -/
  | rdrEmpty
deriving DecidableEq, Repr

/-- Why `exec` has no transition to answer with. The refusals X1 to X4 of R242 are NOT here: they set the state's
flag `refused`, and the machine goes on. -/
inductive Refusal where
  /-- Raised by exec's arm of an instruction without a meaning. Safe. -/
  | notModelled (mnemonic : String)
  /-- Raised by the meaning of a command while a different command is in progress: the call context issues one
  command at a time (R211). Safe. `step` never asks for it. -/
  | commandInProgress
  /-- Raised by the meaning of an event vector whose handler is not enabled (R234). Safe. `step` never asks for it. -/
  | handlerDisabled
  /-- Raised by the meaning of a command whose progress `cc` is at no micro-step of it (R22): in no reachable state.
  Safe. -/
  | badProgress
deriving DecidableEq, Repr

/-- Who wrote the TDR: the facade, or the transmit engine (R13, R27). -/
inductive Who where
  | facade
  | engine
deriving DecidableEq, Repr

/-- The kind of an event source: receive-complete or transmit-complete (R76, R231). -/
inductive Kind where
  | rxc
  | txc
deriving DecidableEq, Repr

/-- The status codes (R81). -/
inductive Status where
  | ok
  | fail
  | noData
  | errChannel
  | errIllegal
deriving DecidableEq, Repr

/-- The observable events (R27). -/
inductive Event where
  /-- `Resp(s, v)`: a command responded; `VALUE` has 28 bits (R82). -/
  | resp     (s : Status) (v : BitVec 28)
  /-- `TdrWrite(c, b, who)`. -/
  | tdrWrite (c : Chan) (b : Byte) (who : Who)
  /-- `Callback(c, t, b)`. -/
  | callback (c : Chan) (t : Token) (b : Byte)
  /-- `Line(c, b)`. -/
  | line     (c : Chan) (b : Byte)
  /-- `SetBaud(c, rate)`. -/
  | setBaud  (c : Chan) (rate : Nat)
deriving DecidableEq, Repr

/-- A ring buffer (R29). `store` lists the cells that hold a known byte, indices strictly rising; an unlisted cell
holds an unspecified value (R31). -/
structure Ring where
  cap   : Nat
  head  : Nat
  tail  : Nat
  len   : Nat
  store : List Host.Cell
deriving DecidableEq, Repr

/-- The channel state `ch[c]` (R21, R23, R24, R25, R28). -/
structure ChanState where
  /-- The channel has been initialised (R21). -/
  init   : Bool
  /-- `transmit_ready` (R23). -/
  ready  : Bool
  /-- `buffered_transmit_active` (R24). -/
  active : Bool
  /-- `receive_overflow_count`, an unsigned number of `OVF_WIDTH` bits (R25). Log entry 15. -/
  ovf    : Nat
  /-- `receive_callback` (R28). -/
  cb     : Option Token
deriving DecidableEq, Repr

/-- The UART device `hal[c]` (R250). -/
structure Device where
  /-- Transmit data register; `none` means empty. -/
  tdr     : Option Byte
  /-- Transmit shift register: the byte now going out. -/
  tsr     : Option Byte
  /-- Receive data register; `none` means empty. -/
  rdr     : Option Byte
  /-- Transmit-complete event pending. -/
  txcPend : Bool
  /-- Receive-complete event pending. -/
  rxcPend : Bool
  /-- Transmit-complete source enabled (R232). -/
  txie    : Bool
  /-- Receive-complete source enabled (R232). -/
  rxie    : Bool
  /-- The current rate, opaque to the UART core. -/
  baud    : Nat
  /-- Bytes the receiver dropped because the RDR was full. -/
  lost    : Nat
deriving DecidableEq, Repr

/-- The locals of a command in progress (R22). -/
structure Locals where
  /-- `L.b`: the byte popped for sending. -/
  b : Option Byte
  /-- `L.i`: the index of the next payload byte of a SENDBLK. -/
  i : Nat
deriving DecidableEq, Repr

/-- The locals a command starts with (R210). -/
def Locals.start : Locals := ⟨none, 0⟩

/-- The call context's progress register `cc` (R22). -/
inductive Progress where
  | idle
  | busy (cmd : Instr) (k : Nat) (L : Locals)
deriving DecidableEq, Repr

/-- What R242 refuses, other than X2, which a SENDBLK delivery shows by itself. DESIGN CHOICE, log entry 11. -/
inductive Forbidden where
  /-- X1: a command issued from handler context. -/
  | commandFromHandler (d : Delivery)
  /-- X1: a callback that reads or writes state of the UART core. -/
  | callbackTouchesCore
  /-- X3: a received frame with a parity or framing error, or a break. -/
  | erroredFrame (c : Chan)
  /-- X4: flow control, DMA, or another command the UART core does not have. -/
  | unsupportedRequest
deriving DecidableEq, Repr

/-- Which transition is taken next: the interleaving is free (R235) and stands in the state as a list of these
choices (R86 has a notation for each). -/
inductive Choice where
  /-- The call context: its command's next micro-step, or the issue of the host's next command (R211). -/
  | call
  /-- `@TXC c`, `@RXC c`: the platform dispatches an event vector (R234). -/
  | event (ev : BitVec 2)
  /-- `~MOVE c` (R251). -/
  | move (c : Chan)
  /-- `~SHIFT c` (R252). -/
  | shift (c : Chan)
  /-- `~ARRIVE c, b` (R253). -/
  | arrive (c : Chan) (b : Byte)
  /-- `~INJTXC c`, free device model (R259). -/
  | injTxc (c : Chan)
  /-- `~INJRX c, b`, free device model (R259). -/
  | injRx (c : Chan) (b : Byte)
  /-- Hardware reset (R270). -/
  | reset
  /-- Something R242 refuses. -/
  | forbidden (x : Forbidden)
deriving DecidableEq, Repr

/-- The whole state. -/
structure State where
  /-- The parameters (R9). No transition changes them. -/
  cfg     : Config
  /-- `ch[c]`. -/
  ch      : PerChan ChanState
  /-- `tx[c]`, the transmit rings. -/
  tx      : PerChan Ring
  /-- `rx[c]`, the receive rings. -/
  rx      : PerChan Ring
  /-- `hal[c]`, the UART devices. -/
  hal     : PerChan Device
  /-- The call context's progress (R22). -/
  cc      : Progress
  /-- The first fault recorded (R33). -/
  faults  : Option Fault
  /-- Something of R242 was asked for (R33). -/
  refused : Bool
  /-- The observation (R27). -/
  trace   : List Event
  /-- Model's own: the commands the host has still to issue, first first (R211). -/
  cmds    : List Delivery
  /-- Model's own: the choices of the interleaving still to come, first first (R235). -/
  sched   : List Choice
  /-- Model's own: how many free values have been drawn. -/
  draws   : Nat
deriving DecidableEq, Repr

/-- An uninitialised channel's fields hold no value (R35, U15); these placeholders stand for that, and every read of
one is a fault `uninit`. DESIGN CHOICE, log entry 4. -/
def ChanState.blank : ChanState := { init := false, ready := false, active := false, ovf := 0, cb := none }

/-- A ring of an uninitialised channel; a placeholder, as `ChanState.blank`. Log entry 4. -/
def Ring.blank : Ring := { cap := 0, head := 0, tail := 0, len := 0, store := [] }

/-- A device after hardware reset (R35), its rate left to the caller (R35, U14). -/
def Device.afterReset (baud : Nat) : Device :=
  { tdr := none, tsr := none, rdr := none, txcPend := false, rxcPend := false, txie := false, rxie := false,
    baud := baud, lost := 0 }

/-- The machine at power-on under configuration `cfg`, with `baud c` in the two rate registers (R35). -/
def State.resetIn (cfg : Config) (baud : PerChan Nat) : State :=
  { cfg := cfg
    ch := ⟨ChanState.blank, ChanState.blank⟩
    tx := ⟨Ring.blank, Ring.blank⟩
    rx := ⟨Ring.blank, Ring.blank⟩
    hal := ⟨Device.afterReset baud.c0, Device.afterReset baud.c1⟩
    cc := .idle
    faults := none
    refused := false
    trace := []
    cmds := []
    sched := []
    draws := 0 }

/-- The machine right after reset (R35). The configuration is K of 95_test_vectors.md (DESIGN CHOICE, log entry 1);
`hal[c].baud`, which the spec leaves unspecified, is 0 (DESIGN CHOICE, log entry 3); the command sequence and the
interleaving are inputs and are empty (log entry 5). -/
def State.reset : State := State.resetIn Config.exampleK ⟨0, 0⟩

end Sys2Proof.Machine
end

