-- ==== Sys2Proof/Machine/Operands.lean ====
section
/-! DEFINITION. The operand forms: the channel selector, the payload bytes, and the widening to `VALUE`
(30_encoding.md rules R72, R82, R83, R84 and R85; 20_memory.md rule R53). -/

namespace Sys2Proof.Machine

/-- The channel a selector names; `none` for 2 and 3, which are out of range (R72). -/
def selChan (sel : Sel) : Option Chan :=
  match sel.toNat with
  | 0 => some .c0
  | 1 => some .c1
  | _ => none

/-- The selector of a channel (R72). -/
def chanSel : Chan → Sel
  | .c0 => 0
  | .c1 => 1

/-- `p[i]`, the payload byte with index `i` (R53). -/
def payloadByte (p : List Byte) (i : Nat) : Option Byte := p[i]?

/-- `zext_28(b)` of a byte (R83). -/
def zextByte (b : Byte) : BitVec 28 := b.setWidth 28

/-- `zext_28` of the overflow counter, which has at most 28 bits (R84). -/
def zextCount (n : Nat) : BitVec 28 := BitVec.ofNat 28 n

/-- A truth value as `VALUE`: 1 or 0 (R84). -/
def zextBool (p : Bool) : BitVec 28 := if p then 1 else 0

/-- `STATUS` as a number (R81). -/
def Status.code : Status → BitVec 4
  | .ok         => 0
  | .fail       => 1
  | .noData     => 2
  | .errChannel => 3
  | .errIllegal => 4

/-- The response word: `STATUS` in bits 31:28 and `VALUE` in bits 27:0 (R82). -/
def responseWord (s : Status) (v : BitVec 28) : Word := s.code.setWidth 32 <<< 28 ||| v.setWidth 32

/-- The number of a fault (R241). -/
def Fault.code : Fault → Nat
  | .popEmpty     => 1
  | .uninit       => 2
  | .reinit       => 3
  | .baudInFlight => 4
  | .tdrOverrun   => 5
  | .rdrEmpty     => 6

end Sys2Proof.Machine
end

