-- ==== Sys2Proof/Machine/Flags.lean ====
section
/-! DEFINITION. The flags: the derived status values (10_state.md rules R26, R38), the overflow increment
(43_rx_engine.md rule R195), the handshake states (42_tx_engine.md rule R176) and handler enabling (60_exceptions.md
rule R234). -/

namespace Sys2Proof.Machine

/-- "Transmit pending" is `not ch[c].ready` (R38). -/
def txPending (s : State) (c : Chan) : Bool := !(s.ch.get c).ready

/-- "Receive buffer empty" is `rx[c].len = 0` (R38). -/
def rxEmpty (s : State) (c : Chan) : Bool := (s.rx.get c).len == 0

/-- The receive-overflow flag is `ch[c].ovf != 0` (R26). -/
def overflowFlag (s : State) (c : Chan) : Bool := (s.ch.get c).ovf != 0

/-- `ovf_inc` (R195). -/
def ovfInc (cfg : Config) (v : Nat) : Nat :=
  if v < cfg.ovfMax then v + 1
  else match cfg.ovfAtMax with
    | .wrap     => 0
    | .saturate => v

/-- The four states of the byte handshake (R176). -/
inductive Handshake where
  | idle
  | single
  | buffered
  | armed
deriving DecidableEq, Repr

/-- The handshake state, named by the pair (`ready`, `active`) (R176). -/
def handshake (x : ChanState) : Handshake :=
  match x.ready, x.active with
  | true,  false => .idle
  | false, false => .single
  | false, true  => .buffered
  | true,  true  => .armed

/-- The pending flag of a source (R233). -/
def Device.pending (d : Device) : Kind → Bool
  | .rxc => d.rxcPend
  | .txc => d.txcPend

/-- The enable flag of a source (R232). -/
def Device.enable (d : Device) : Kind → Bool
  | .rxc => d.rxie
  | .txc => d.txie

/-- The handler of source (c, kind) is enabled: pending, enabled, no fault and nothing refused (R234). A refusal
stops handlers and nothing else (DEDUCED, log entry 10). -/
def handlerEnabled (s : State) (c : Chan) (kind : Kind) : Bool :=
  (s.hal.get c).pending kind && (s.hal.get c).enable kind && s.faults.isNone && !s.refused

/-- Some handler is enabled (R281). -/
def anyHandlerEnabled (s : State) : Bool :=
  handlerEnabled s .c0 .rxc || handlerEnabled s .c0 .txc || handlerEnabled s .c1 .rxc || handlerEnabled s .c1 .txc

/-- The transmitter of a channel is quiet: `ready`, TDR and TSR empty, no transmit-complete event pending (R60, R277). -/
def quiet (s : State) (c : Chan) : Bool :=
  (s.ch.get c).ready && (s.hal.get c).tdr.isNone && (s.hal.get c).tsr.isNone && !(s.hal.get c).txcPend

end Sys2Proof.Machine
end

