-- ==== Sys2Proof/Machine/Ring.lean ====
section
/-! DEFINITION. Ring storage and the ring primitives (20_memory.md rule R51; 40_ring_buffer.md).

Storage is a list of (index, byte) in one canonical form: indices strictly rising. A cell that is not listed holds an
unspecified value (R31); reading it answers `none`, and the primitive that asked takes a free value. -/

namespace Sys2Proof.Machine

/-! ### Storage cells -/

/-- The canonical form of storage: indices strictly rising. -/
def Memory.wf : List Host.Cell → Bool
  | []             => true
  | [_]            => true
  | x :: y :: rest => decide (x.1 < y.1) && Memory.wf (y :: rest)

/-- `MemRead(store, i, 1)`; `none` where the cell's value is unspecified (R13, R31). -/
def Memory.read : List Host.Cell → Nat → Option Byte
  | [], _           => none
  | (j, b) :: m, i  => if i = j then some b else Memory.read m i

/-- `MemWrite(store, i, 1, b)` (R13). -/
def Memory.write : List Host.Cell → Nat → Byte → List Host.Cell
  | [], i, b          => [(i, b)]
  | (j, x) :: m, i, b =>
    if i < j then (i, b) :: (j, x) :: m
    else if i = j then (i, b) :: m
    else (j, x) :: Memory.write m i b

/-- Storage whose every cell is unspecified (R31). -/
def Memory.unspecified : List Host.Cell := []

/-! ### The primitives -/

/-- A ring as INIT creates it: empty, contents unspecified (R36, R212). -/
def Ring.create (cap : Nat) : Ring :=
  { cap := cap, head := 0, tail := 0, len := 0, store := Memory.unspecified }

/-- `capacity(r)` (R101). -/
def Ring.capacity (r : Ring) : Nat := r.cap

/-- `occupancy(r)` (R102). -/
def Ring.occupancy (r : Ring) : Nat := r.len

/-- `push_back(r, b)`: whether it succeeded, and the ring after it (R104). -/
def Ring.pushBack (r : Ring) (b : Byte) : Bool × Ring :=
  if r.len < r.cap then
    (true, { r with store := Memory.write r.store r.tail b, tail := (r.tail + 1) % r.cap, len := r.len + 1 })
  else (false, r)

/-- The byte at the front of a ring, or the free value `free` where the cell's value is unspecified, which no
reachable state shows (R31). -/
def Ring.front (r : Ring) (free : Byte) : Byte := (Memory.read r.store r.head).getD free

/-- `pop_front(r)`: `none` on an empty ring, else the oldest byte and the ring after it (R105). The cell read keeps
its value. -/
def Ring.popFront (r : Ring) (free : Byte) : Option (Byte × Ring) :=
  if r.len = 0 then none
  else some (r.front free, { r with head := (r.head + 1) % r.cap, len := r.len - 1 })

/-- How many free values a `pop_front` draws: one when its cell is unspecified. -/
def Ring.popDraws (r : Ring) : Nat := if (Memory.read r.store r.head).isSome then 0 else 1

/-- `flush(r)`: empty, indices 0 (R106). The cells are not cleared to any value: their contents become unspecified,
so the model forgets what it knew of them (R31; DEDUCED, log entry 6). -/
def Ring.flush (r : Ring) : Ring :=
  { r with len := 0, head := 0, tail := 0, store := Memory.unspecified }

/-- The index of the `j`-th queued byte, oldest first (R30). -/
def Ring.slot (r : Ring) (j : Nat) : Nat := (r.head + j) % r.cap

/-- The queued bytes, oldest first (R30). -/
def Ring.queue (r : Ring) : List (Option Byte) :=
  (List.range r.len).map fun j => Memory.read r.store (r.slot j)

/-- R30: what every ring of an initialised channel satisfies between transitions, and the canonical form of its
storage: rising indices, all inside the ring, every queued cell holding a known byte (R31). -/
abbrev Ring.wf (r : Ring) : Prop :=
  r.len ≤ r.cap ∧
  (0 < r.cap → r.head < r.cap ∧ r.tail < r.cap ∧ r.tail = (r.head + r.len) % r.cap) ∧
  (r.cap = 0 → r.head = 0 ∧ r.tail = 0 ∧ r.len = 0) ∧
  Memory.wf r.store = true ∧
  (r.store.all fun x => decide (x.1 < r.cap)) = true ∧
  (r.queue.all Option.isSome) = true

end Sys2Proof.Machine
end

