-- ==== Sys2Proof/Machine/Ops.lean ====
section
/-! DEFINITION. The named operations the meanings are written over: field updates, the trace, raising a fault, the
frame every command runs in, the frame every handler runs in, ring access from the state, and hardware reset. -/

namespace Sys2Proof.Machine

/-! ### Field updates -/

/-- `ch[c] <- x`. -/
def State.setCh (s : State) (c : Chan) (x : ChanState) : State := { s with ch := s.ch.set c x }

/-- `tx[c] <- r`. -/
def State.setTx (s : State) (c : Chan) (r : Ring) : State := { s with tx := s.tx.set c r }

/-- `rx[c] <- r`. -/
def State.setRx (s : State) (c : Chan) (r : Ring) : State := { s with rx := s.rx.set c r }

/-- `hal[c] <- d`. -/
def State.setHal (s : State) (c : Chan) (d : Device) : State := { s with hal := s.hal.set c d }

/-- `ch[c].ready <- v` (R23). -/
def State.setReady (s : State) (c : Chan) (v : Bool) : State := s.setCh c { s.ch.get c with ready := v }

/-- `ch[c].active <- v` (R24). -/
def State.setActive (s : State) (c : Chan) (v : Bool) : State := s.setCh c { s.ch.get c with active := v }

/-- `cc <- p` (R22). -/
def State.setCc (s : State) (p : Progress) : State := { s with cc := p }

/-- `n` free values drawn. -/
def State.drawn (s : State) (n : Nat) : State := { s with draws := s.draws + n }

/-- `emit E` (R13). -/
def State.emit (s : State) (e : Event) : State := { s with trace := s.trace ++ [e] }

/-- `respond(status, value)`: the response joins the trace and the command is over (R13, R82). -/
def State.respond (s : State) (st : Status) (v : BitVec 28) : State := (s.emit (.resp st v)).setCc .idle

/-- `refused <- true` (R242). -/
def State.refuse (s : State) : State := { s with refused := true }

/-- The command in progress goes to its next micro-step (R22). -/
def State.advance (s : State) : State :=
  match s.cc with
  | .idle       => s
  | .busy i k L => s.setCc (.busy i (k + 1) L)

/-- The locals of the command in progress (R22). -/
def State.setLocals (s : State) (L : Locals) : State :=
  match s.cc with
  | .idle       => s
  | .busy i k _ => s.setCc (.busy i k L)

/-! ### Raising a fault (R240) -/

/-- How a transition ends other than with a state: a fault with the trace emitted before it, or no transition. -/
inductive Stop where
  | raise  (f : Fault) (trace : List Event)
  | refuse (r : Refusal)
deriving DecidableEq, Repr

/-- What a transition computes. -/
abbrev Effect (α : Type) := Except Stop α

/-- `raise Fault(f)` at a point where the transition has reached state `s`. -/
def raise {α : Type} (f : Fault) (s : State) : Effect α := .error (.raise f s.trace)

/-- TAKING A FAULT: the transition that raised it records it; its other writes are discarded, except the trace events
it emitted before the fault (R240). `s` is the state the transition started from. DEDUCED, log entry 9. -/
def State.takeFault (s : State) (f : Fault) (trace : List Event) : State :=
  { s with faults := some f, trace := trace }

/-- The outcome of a transition from `s`. -/
def settle (s : State) : Effect State → Host.Outcome State Fault Refusal
  | .ok t                => .next t
  | .error (.raise f tr) => .next (s.takeFault f tr)
  | .error (.refuse r)   => .refused r

/-! ### Commands (R210, R22) -/

/-- Where a command is: at k0 with fresh locals when the call context is idle, at its own micro-step when it is the
command in progress; `none` when another command is. -/
def progressOf (i : Instr) : Progress → Option (Nat × Locals)
  | .idle       => some (0, Locals.start)
  | .busy j k L => if j = i then some (k, L) else none

/-- The frame of a command. From an idle call context it is the issue transition of R210: channel check, `UNINIT`
check, `cc <- Busy(cmd, 0, L)` and micro-step k0. While this command is in progress it is its next micro-step.
`body c k L` is micro-step `k` on channel `c` with locals `L`, from a state whose `cc` is `Busy(cmd, k, L)`. DESIGN
CHOICE for the form, log entry 12. -/
def runCommand (i : Instr) (sel : Sel) (needsInit : Bool) (body : Chan → Nat → Locals → State → Effect State)
    (s : State) : Host.Outcome State Fault Refusal :=
  match s.faults with
  | some f => .fault f
  | none =>
    match progressOf i s.cc with
    | none => .refused .commandInProgress
    | some (k, L) =>
      match selChan sel with
      | none => .next (s.respond .errChannel 0)
      | some c =>
        if needsInit && !(s.ch.get c).init then settle s (raise .uninit s)
        else settle s (body c k L (s.setCc (.busy i k L)))

/-- A command of one micro-step (R274: "Single-step commands"). -/
def oneStep (k0 : Chan → State → Effect State) (c : Chan) (k : Nat) (_ : Locals) (s : State) : Effect State :=
  match k with
  | 0     => k0 c s
  | _ + 1 => .error (.refuse .badProgress)

/-! ### Handlers (R234 to R238) -/

/-- RETURN FROM A HANDLER restores nothing, because entry saved nothing (R238). -/
def returnFromHandler (s : State) : State := s

/-- TAKING AN EVENT: when the handler of source (c, kind) is enabled it runs to completion as one transition (R236).
Entry saves nothing and leaves `cc` as it was (R237). In a faulted state no transition is enabled (R240). -/
def takeEvent (c : Chan) (kind : Kind) (handler : State → Effect State) (s : State) :
    Host.Outcome State Fault Refusal :=
  match s.faults with
  | some f => .fault f
  | none =>
    if handlerEnabled s c kind then settle s ((handler s).map returnFromHandler)
    else .refused .handlerDisabled

/-! ### Ring access from the state -/

/-- `pop_front(tx[c])` (R105). -/
def popTx (c : Chan) (s : State) : Effect (Byte × State) :=
  match (s.tx.get c).popFront (Config.freeByte s.draws) with
  | none        => raise .popEmpty s
  | some (b, r) => .ok (b, (s.setTx c r).drawn (s.tx.get c).popDraws)

/-- `pop_front(rx[c])` (R105). -/
def popRx (c : Chan) (s : State) : Effect (Byte × State) :=
  match (s.rx.get c).popFront (Config.freeByte s.draws) with
  | none        => raise .popEmpty s
  | some (b, r) => .ok (b, (s.setRx c r).drawn (s.rx.get c).popDraws)

/-- `push_back(tx[c], b)`, its result discarded (R123, R125). -/
def pushTx (c : Chan) (b : Byte) (s : State) : State := s.setTx c ((s.tx.get c).pushBack b).2

/-- `push_back(rx[c], b)`: its result, and the state after it (R191). -/
def pushRx (c : Chan) (b : Byte) (s : State) : Bool × State :=
  (((s.rx.get c).pushBack b).1, s.setRx c ((s.rx.get c).pushBack b).2)

/-- `flush(rx[c])` (R127). -/
def flushRx (c : Chan) (s : State) : State := s.setRx c (s.rx.get c).flush

/-! ### Hardware reset (R270) -/

/-- Hardware reset, from any state: the values of R35, the trace kept. The parameters, the host's commands and the
choices still to come are not of the UART core and stay. The rate registers hold any value (R35): two free values. -/
def State.hardReset (s : State) : State :=
  { State.resetIn s.cfg ⟨Config.freeBaud s.draws, Config.freeBaud (s.draws + 1)⟩ with
    trace := s.trace, cmds := s.cmds, sched := s.sched, draws := s.draws + 2 }

end Sys2Proof.Machine
end

