-- ==== Sys2Proof/Machine/Device.lean ====
section
/-! DEFINITION. The UART device: the primitives the core calls (60_exceptions.md rules R255 to R258) and the steps it
takes on its own (R251 to R253, R259). A step is `none` where it is not enabled. -/

namespace Sys2Proof.Machine

/-! ### Primitives -/

/-- `hal_tdr_empty(c)` (R255). -/
def halTdrEmpty (c : Chan) (s : State) : Bool := (s.hal.get c).tdr.isNone

/-- `hal_write_tdr(c, b, who)` (R256). -/
def halWriteTdr (c : Chan) (b : Byte) (who : Who) (s : State) : Effect State :=
  if s.cfg.envModel = .reference ∧ (s.hal.get c).tdr.isSome = true then raise .tdrOverrun s
  else .ok ((s.setHal c { s.hal.get c with tdr := some b }).emit (.tdrWrite c b who))

/-- `hal_read_rdr(c)` (R257). -/
def halReadRdr (c : Chan) (s : State) : Effect (Byte × State) :=
  match (s.hal.get c).rdr with
  | none   => raise .rdrEmpty s
  | some b => .ok (b, s.setHal c { s.hal.get c with rdr := none, rxcPend := false })

/-- `hal_set_baud(c, rate)` (R258). -/
def halSetBaud (c : Chan) (rate : Nat) (s : State) : State :=
  (s.setHal c { s.hal.get c with baud := rate }).emit (.setBaud c rate)

/-- `hal_enable_irqs(c)` (R258). -/
def halEnableIrqs (c : Chan) (s : State) : State := s.setHal c { s.hal.get c with txie := true, rxie := true }

/-- The transmit-complete flag is cleared on entry to its handler (R171, R233). -/
def clearTxcPend (c : Chan) (s : State) : State := s.setHal c { s.hal.get c with txcPend := false }

/-! ### Device steps -/

/-- MOVE `c` (R251). -/
def moveStep (c : Chan) (s : State) : Option State :=
  match (s.hal.get c).tdr, (s.hal.get c).tsr with
  | some b, none => some (s.setHal c { s.hal.get c with tsr := some b, tdr := none })
  | _, _         => none

/-- SHIFT `c` (R252). -/
def shiftStep (c : Chan) (s : State) : Option State :=
  match (s.hal.get c).tsr with
  | none   => none
  | some b =>
    some ((s.setHal c { s.hal.get c with
      tsr := none, txcPend := (s.hal.get c).tdr.isNone || (s.hal.get c).txcPend }).emit (.line c b))

/-- ARRIVE `c, b` (R253): always enabled. -/
def arriveStep (c : Chan) (b : Byte) (s : State) : State :=
  match (s.hal.get c).rdr with
  | none   => s.setHal c { s.hal.get c with rdr := some b, rxcPend := true }
  | some _ => s.setHal c { s.hal.get c with lost := (s.hal.get c).lost + 1 }

/-- INJTXC `c` (R259): enabled in the free device model. -/
def injTxcStep (c : Chan) (s : State) : Option State :=
  match s.cfg.envModel with
  | .reference => none
  | .free      => some (s.setHal c { s.hal.get c with txcPend := true })

/-- INJRX `c, b` (R259): enabled in the free device model. -/
def injRxStep (c : Chan) (b : Byte) (s : State) : Option State :=
  match s.cfg.envModel with
  | .reference => none
  | .free      => some (s.setHal c { s.hal.get c with rdr := some b, rxcPend := true })

/-! ### The hardware write path (R121) -/

/-- `hold until hal_tdr_empty(c)`: advances when the TDR is empty, else nothing happens (R58). -/
def hold (c : Chan) (s : State) : State := if halTdrEmpty c s then s.advance else s

/-- `hal_write_tdr(c, b, facade); ch[c].ready <- false`, one transition (R121). -/
def facadeWrite (c : Chan) (b : Byte) (s : State) : Effect State :=
  (halWriteTdr c b .facade s).map fun t => t.setReady c false

/-- The write micro-step that ends SENDB, STARTBUF and SENDBLK: the facade's write, then `respond(OK, 0)`. -/
def writeAndRespond (c : Chan) (b : Byte) (s : State) : Effect State :=
  (facadeWrite c b s).map fun t => t.respond .ok 0

/-- Pop `tx[c]` into `L.b` and go on (STARTBUF k1, SENDBLK k(n+2)). -/
def popForSending (c : Chan) (L : Locals) (s : State) : Effect State :=
  (popTx c s).map fun x => (x.2.setLocals { L with b := some x.1 }).advance

/-- The last four micro-steps that STARTBUF and SENDBLK share, `j` counted from the setting of `active`
(R124 k0 to k3, R125 k(n+1) to k(n+4)). -/
def startSending (c : Chan) (j : Nat) (L : Locals) (s : State) : Effect State :=
  match j with
  | 0 => .ok (s.setActive c true).advance
  | 1 => popForSending c L s
  | 2 => .ok (hold c s)
  | 3 =>
    match L.b with
    | none   => .error (.refuse .badProgress)
    | some b => writeAndRespond c b s
  | _ => .error (.refuse .badProgress)

end Sys2Proof.Machine
end

