-- ==== Sys2Proof/Machine/Control.lean ====
section
/-! DEFINITION. Channel control: illegal words, INIT, SETCB and SETBAUD (44_channel_control.md; 41_facade.md rule R130;
30_encoding.md rule R77). -/

namespace Sys2Proof.Machine

/-- An illegal command word responds ERR_ILLEGAL and changes nothing else; no channel check precedes it (R77, R210). -/
def execReserved (w : Word) (s : State) : Host.Outcome State Fault Refusal :=
  match s.faults with
  | some f => .fault f
  | none =>
    match progressOf (.reserved w) s.cc with
    | none   => .refused .commandInProgress
    | some _ => .next (s.respond .errIllegal 0)

/-- INIT k0 (R212), with the values of R36. -/
def initStep (c : Chan) (s : State) : Effect State :=
  if (s.ch.get c).init then raise .reinit s
  else
    let s1 := (s.setTx c (Ring.create (s.cfg.capTx.get c))).setRx c (Ring.create (s.cfg.capRx.get c))
    let s2 := s1.setCh c { init := true, ready := true, active := false, ovf := 0, cb := none }
    .ok ((halEnableIrqs c (halSetBaud c s.cfg.defaultBaud s2)).respond .ok 0)

/-- INIT `ch` (R212). -/
def execInit (ch : Sel) (s : State) : Host.Outcome State Fault Refusal :=
  runCommand (.init ch) ch false (oneStep initStep) s

/-- SETCB k0 (R130). -/
def setcbStep (cb : Option Token) (c : Chan) (s : State) : Effect State :=
  .ok ((s.setCh c { s.ch.get c with cb := cb }).respond .ok 0)

/-- SETCB `ch, INS, TOK` (R130). -/
def execSetcb (ch : Sel) (cb : Option Token) (s : State) : Host.Outcome State Fault Refusal :=
  runCommand (.setcb ch cb) ch true (oneStep (setcbStep cb)) s

/-- SETBAUD k0 (R214). -/
def setbaudStep (rate : Rate) (c : Chan) (s : State) : Effect State :=
  if (s.ch.get c).ready = false ∨ (s.ch.get c).active = true then raise .baudInFlight s
  else .ok ((halSetBaud c rate.toNat s).respond .ok 0)

/-- SETBAUD `ch, RATE` (R214). -/
def execSetbaud (ch : Sel) (rate : Rate) (s : State) : Host.Outcome State Fault Refusal :=
  runCommand (.setbaud ch rate) ch true (oneStep (setbaudStep rate)) s

end Sys2Proof.Machine
end

