-- ==== Sys2Proof/Machine/Handlers.lean ====
section
/-! DEFINITION. The four event handlers: the transmit engine (42_tx_engine.md rule R171) and the receive engine
(43_rx_engine.md rule R191), each run one atomic transition (60_exceptions.md rule R236). -/

namespace Sys2Proof.Machine

/-- The done values, `ready = true` and `active = active'` (R171, R173). -/
def doneWith (c : Chan) (active' : Bool) (s : State) : State :=
  s.setCh c { s.ch.get c with ready := true, active := active' }

/-- TXC `c` (R171). The engine's write has no wait and leaves `ready` alone (R172). A channel that was never
initialised has no fields to read (R35; DEDUCED, log entry 14). -/
def txcHandler (c : Chan) (s : State) : Effect State :=
  if (s.ch.get c).init = false then raise .uninit s
  else if (s.ch.get c).active then
    if 0 < (s.tx.get c).occupancy then
      match popTx c (clearTxcPend c s) with
      | .error e   => .error e
      | .ok (b, t) => halWriteTdr c b .engine t
    else .ok (doneWith c false (clearTxcPend c s))
  else .ok (doneWith c false (clearTxcPend c s))

/-- The buffering path of the receive engine: push, or count the dropped byte (R194, R195). -/
def bufferOrCount (c : Chan) (b : Byte) (s : State) : State :=
  match pushRx c b s with
  | (true, t)  => t
  | (false, t) => t.setCh c { t.ch.get c with ovf := ovfInc t.cfg (t.ch.get c).ovf }

/-- RXC `c` (R191): the read of the RDR comes first, whatever follows (R192). The callback's body is outside the model
(R193; DEDUCED, log entries 14 and 17). -/
def rxcHandler (c : Chan) (s : State) : Effect State :=
  match halReadRdr c s with
  | .error e   => .error e
  | .ok (b, t) =>
    if (t.ch.get c).init = false then raise .uninit t
    else
      match (t.ch.get c).cb with
      | some tok => .ok (t.emit (.callback c tok b))
      | none     => .ok (bufferOrCount c b t)

/-- RXC0, vector 0 (R76, R191). -/
def execRxc0 (s : State) : Host.Outcome State Fault Refusal := takeEvent .c0 .rxc (rxcHandler .c0) s

/-- TXC0, vector 1 (R76, R171). -/
def execTxc0 (s : State) : Host.Outcome State Fault Refusal := takeEvent .c0 .txc (txcHandler .c0) s

/-- RXC1, vector 2 (R76, R191). -/
def execRxc1 (s : State) : Host.Outcome State Fault Refusal := takeEvent .c1 .rxc (rxcHandler .c1) s

/-- TXC1, vector 3 (R76, R171). -/
def execTxc1 (s : State) : Host.Outcome State Fault Refusal := takeEvent .c1 .txc (txcHandler .c1) s

end Sys2Proof.Machine
end

