-- ==== Sys2Proof/Machine/Receive.lean ====
section
/-! DEFINITION. The facade's receive commands and queries: RECV, FLUSHRX, RXEMPTY, TXPEND and OVFCNT
(41_facade.md rules R126 to R129 and R131). -/

namespace Sys2Proof.Machine

/-- RECV k0: check and pop in one transition (R126). -/
def recvStep (c : Chan) (s : State) : Effect State :=
  if 0 < (s.rx.get c).capacity ∧ 0 < (s.rx.get c).occupancy then
    (popRx c s).map fun x => x.2.respond .ok (zextByte x.1)
  else .ok (s.respond .noData 0)

/-- RECV `ch` (R126). -/
def execRecv (ch : Sel) (s : State) : Host.Outcome State Fault Refusal :=
  runCommand (.recv ch) ch true (oneStep recvStep) s

/-- FLUSHRX k0 (R127). -/
def flushrxStep (c : Chan) (s : State) : Effect State := .ok ((flushRx c s).respond .ok 0)

/-- FLUSHRX `ch` (R127). -/
def execFlushrx (ch : Sel) (s : State) : Host.Outcome State Fault Refusal :=
  runCommand (.flushrx ch) ch true (oneStep flushrxStep) s

/-- RXEMPTY k0 (R128). -/
def rxemptyStep (c : Chan) (s : State) : Effect State := .ok (s.respond .ok (zextBool (rxEmpty s c)))

/-- RXEMPTY `ch` (R128). -/
def execRxempty (ch : Sel) (s : State) : Host.Outcome State Fault Refusal :=
  runCommand (.rxempty ch) ch true (oneStep rxemptyStep) s

/-- TXPEND k0 (R129). -/
def txpendStep (c : Chan) (s : State) : Effect State := .ok (s.respond .ok (zextBool (txPending s c)))

/-- TXPEND `ch` (R129). -/
def execTxpend (ch : Sel) (s : State) : Host.Outcome State Fault Refusal :=
  runCommand (.txpend ch) ch true (oneStep txpendStep) s

/-- OVFCNT k0 (R131). -/
def ovfcntStep (c : Chan) (s : State) : Effect State := .ok (s.respond .ok (zextCount (s.ch.get c).ovf))

/-- OVFCNT `ch` (R131). -/
def execOvfcnt (ch : Sel) (s : State) : Host.Outcome State Fault Refusal :=
  runCommand (.ovfcnt ch) ch true (oneStep ovfcntStep) s

end Sys2Proof.Machine
end

