-- ==== Sys2Proof/Machine/Transmit.lean ====
section
/-! DEFINITION. The facade's transmit commands: SENDB, ENQB, STARTBUF and SENDBLK (41_facade.md rules R121 to R125, R132). -/

namespace Sys2Proof.Machine

/-- The micro-steps of SENDB (R122). -/
def sendbSteps (b : Byte) (c : Chan) (k : Nat) (_ : Locals) (s : State) : Effect State :=
  match k with
  | 0 => .ok (hold c s)
  | 1 => writeAndRespond c b s
  | _ => .error (.refuse .badProgress)

/-- SENDB `ch, b` (R122). -/
def execSendb (ch : Sel) (b : Byte) (s : State) : Host.Outcome State Fault Refusal :=
  runCommand (.sendb ch b) ch true (sendbSteps b) s

/-- ENQB k0: the result of the push is discarded (R123). -/
def enqbStep (b : Byte) (c : Chan) (s : State) : Effect State := .ok ((pushTx c b s).respond .ok 0)

/-- ENQB `ch, b` (R123). -/
def execEnqb (ch : Sel) (b : Byte) (s : State) : Host.Outcome State Fault Refusal :=
  runCommand (.enqb ch b) ch true (oneStep (enqbStep b)) s

/-- STARTBUF `ch` (R124). -/
def execStartbuf (ch : Sel) (s : State) : Host.Outcome State Fault Refusal :=
  runCommand (.startbuf ch) ch true startSending s

/-- The headroom check of SENDBLK, strict and on unbounded naturals (R125 k0, R132). -/
abbrev headroom (r : Ring) (n : Nat) : Prop := 0 < n ∧ r.occupancy + n < r.capacity

/-- SENDBLK k0 (R125). -/
def sendblkCheck (p : List Byte) (c : Chan) (L : Locals) (s : State) : Effect State :=
  if headroom (s.tx.get c) p.length then .ok (s.setLocals { L with i := 0 }).advance
  else .ok (s.respond .fail 0)

/-- SENDBLK k1 to kn: one payload byte (R125). -/
def sendblkPush (p : List Byte) (c : Chan) (L : Locals) (s : State) : Effect State :=
  match payloadByte p L.i with
  | none   => .error (.refuse .badProgress)
  | some b => .ok ((pushTx c b s).setLocals { L with i := L.i + 1 }).advance

/-- The micro-steps of SENDBLK: k0, then one push per byte, then the four that start sending (R125). -/
def sendblkSteps (p : List Byte) (c : Chan) (k : Nat) (L : Locals) (s : State) : Effect State :=
  if k = 0 then sendblkCheck p c L s
  else if k ≤ p.length then sendblkPush p c L s
  else startSending c (k - (p.length + 1)) L s

/-- SENDBLK `ch, p` (R125). -/
def execSendblk (ch : Sel) (p : List Byte) (s : State) : Host.Outcome State Fault Refusal :=
  runCommand (.sendblk ch p) ch true (sendblkSteps p) s

end Sys2Proof.Machine
end

