-- ==== Sys2Proof/Machine/Dispatch.lean ====
section
/-! DEFINITION. The meaning of every instruction, one arm per constructor. -/

namespace Sys2Proof.Machine

/-- One transition of an instruction: of a command, its issue when the call context is idle and its next micro-step
while it is in progress; of an event vector, its handler. -/
def exec (i : Instr) (s : State) : Host.Outcome State Fault Refusal :=
  match i with
  | .init ch => Sys2Proof.Machine.execInit ch s
  | .setcb ch cb => Sys2Proof.Machine.execSetcb ch cb s
  | .setbaud ch rate => Sys2Proof.Machine.execSetbaud ch rate s
  | .sendb ch b => Sys2Proof.Machine.execSendb ch b s
  | .enqb ch b => Sys2Proof.Machine.execEnqb ch b s
  | .sendblk ch p => Sys2Proof.Machine.execSendblk ch p s
  | .startbuf ch => Sys2Proof.Machine.execStartbuf ch s
  | .recv ch => Sys2Proof.Machine.execRecv ch s
  | .flushrx ch => Sys2Proof.Machine.execFlushrx ch s
  | .rxempty ch => Sys2Proof.Machine.execRxempty ch s
  | .txpend ch => Sys2Proof.Machine.execTxpend ch s
  | .ovfcnt ch => Sys2Proof.Machine.execOvfcnt ch s
  | .rxc0 => Sys2Proof.Machine.execRxc0 s
  | .txc0 => Sys2Proof.Machine.execTxc0 s
  | .rxc1 => Sys2Proof.Machine.execRxc1 s
  | .txc1 => Sys2Proof.Machine.execTxc1 s
  | .reserved w => Sys2Proof.Machine.execReserved w s

end Sys2Proof.Machine
end

