-- ==== Sys2Proof/Machine/Fetch.lean ====
section
/-! DEFINITION. Where the next instruction comes from: the host's command sequence (44_channel_control.md rule R211),
the event vectors (60_exceptions.md rule R234), and the device and host steps that are no instruction. -/

namespace Sys2Proof.Machine

/-- What the call context does next. -/
inductive Fetched where
  /-- Nothing: it is idle and the host has no further command. -/
  | nothing
  /-- It runs a transition of `i` from state `s`. -/
  | run (i : Instr) (s : State)
  /-- The delivery is a SENDBLK with a number of payload bytes other than COUNT (X2 of R242). -/
  | mismatched (s : State)
deriving DecidableEq, Repr

/-- The call context goes on with the command in progress, or takes the host's next command (R210, R211). -/
def fetchCall (s : State) : Fetched :=
  match s.cc with
  | .busy i _ _ => .run i s
  | .idle =>
    match s.cmds with
    | []      => .nothing
    | d :: ds =>
      match decode (.command d) with
      | .ok i    => .run i { s with cmds := ds }
      | .error _ => .mismatched { s with cmds := ds }

/-- The channel of an event vector, `EV[1]` (R76). -/
def vectorChan (ev : BitVec 2) : Chan := if ev.getLsbD 1 then .c1 else .c0

/-- The kind of an event vector, `EV[0]` (R76). -/
def vectorKind (ev : BitVec 2) : Kind := if ev.getLsbD 0 then .txc else .rxc

/-- The handler an event vector names is enabled (R234). -/
def vectorEnabled (ev : BitVec 2) (s : State) : Bool := handlerEnabled s (vectorChan ev) (vectorKind ev)

/-- A device step or a refused request, as a transition; `none` where it is not enabled, and for the choices that are
no such step. -/
def environmentStep (s : State) : Choice → Option State
  | .move c      => moveStep c s
  | .shift c     => shiftStep c s
  | .arrive c b  => some (arriveStep c b s)
  | .injTxc c    => injTxcStep c s
  | .injRx c b   => injRxStep c b s
  | .forbidden _ => some s.refuse
  | .call        => none
  | .event _     => none
  | .reset       => none

/-- The notation of a step other agents take (R86): handler runs, device steps and injections. -/
def Choice.text : Choice → Option String
  | .event ev    => (decodeVector ev).text
  | .move c      => some ("~MOVE " ++ selText (chanSel c))
  | .shift c     => some ("~SHIFT " ++ selText (chanSel c))
  | .arrive c b  => some ("~ARRIVE " ++ selText (chanSel c) ++ ", " ++ byteText b)
  | .injTxc c    => some ("~INJTXC " ++ selText (chanSel c))
  | .injRx c b   => some ("~INJRX " ++ selText (chanSel c) ++ ", " ++ byteText b)
  | .call        => none
  | .reset       => none
  | .forbidden _ => none

/-! ### Placing an instruction where the next step takes it -/

/-- Raise the event of a vector with its source enabled: what the platform's dispatch needs to take it (R234). A
receive-complete event is pending only while the RDR holds a byte (R257), so an empty RDR gets one. -/
def raiseVector (ev : BitVec 2) (d : Device) : Device :=
  match vectorKind ev with
  | .txc => { d with txcPend := true, txie := true }
  | .rxc => { d with rxcPend := true, rxie := true, rdr := some (d.rdr.getD 0) }

/-- The vector becomes the next choice, its event raised. -/
def placeVector (ev : BitVec 2) (s : State) : State :=
  { s.setHal (vectorChan ev) (raiseVector ev (s.hal.get (vectorChan ev))) with sched := .event ev :: s.sched }

/-- The delivery becomes the host's next command, the call context idle and next to move. -/
def placeCommand (d : Delivery) (s : State) : State :=
  { s with cmds := d :: s.cmds, cc := .idle, sched := .call :: s.sched }

/-- A table row's bits, placed where the next step takes its instruction: fewer than 32 bits are an event vector. -/
def placeTableWord (nbits w : Nat) (s : State) : State :=
  if nbits < 32 then placeVector (BitVec.ofNat 2 w) s
  else
    match readDelivery (tableBytes (w % 2 ^ nbits)) with
    | .ok (d, _) => placeCommand d s
    | .error _   => s

end Sys2Proof.Machine
end

