-- ==== Sys2Proof/Machine/Step.lean ====
section
/-! DEFINITION. One step: the transition that the next choice of the interleaving names (20_memory.md rules R56 and
R59; 60_exceptions.md rules R234, R235 and R240). -/

namespace Sys2Proof.Machine

/-- The call context's transition (R210, R211). -/
def callStep (s : State) : Host.Outcome State Fault Refusal :=
  match fetchCall s with
  | .nothing      => .next s
  | .run i t      => exec i t
  | .mismatched t => .next t.refuse

/-- An event vector is dispatched when its handler is enabled; otherwise no transition occurs (R234). -/
def eventStep (ev : BitVec 2) (s : State) : Host.Outcome State Fault Refusal :=
  if vectorEnabled ev s then exec (decodeVector ev) s else .next s

/-- The transition a choice names, from a state without a fault. A choice whose agent has no enabled transition passes
and nothing happens (DESIGN CHOICE, log entry 7). -/
def choiceStep (x : Choice) (s : State) : Host.Outcome State Fault Refusal :=
  match x with
  | .call     => callStep s
  | .event ev => eventStep ev s
  | x         => .next ((environmentStep s x).getD s)

/-- One step. A hardware reset may come at any state; any other transition only while no fault is recorded, and a
faulted machine stops with its fault (R240, R270). With no choice left the machine waits (R272, log entry 5). -/
def step (s : State) : Host.Outcome State Fault Refusal :=
  match s.sched with
  | .reset :: rest => .next ({ s with sched := rest }).hardReset
  | rest =>
    match s.faults with
    | some f => .fault f
    | none =>
      match rest with
      | []        => .next s
      | x :: rest => choiceStep x { s with sched := rest }

/-- `s` with an instruction of `nbits` bits `w` placed where the next step takes it (log entry 8). -/
def State.withFetchWord (s : State) (nbits w : Nat) : State := placeTableWord nbits w s

end Sys2Proof.Machine
end

