-- ==== Sys2Proof/WellFormed.lean ====
section
/-! DEFINITION. Which terms of the abstract syntax are instructions: the constraints of 30_encoding.md rules R74, R75
and R77 that the types do not already carry. -/

namespace Sys2Proof

/-- An instruction is well-formed when an encoding for it exists: `RATE` is not 0 (R74), a payload has at most
`2^16 - 1` bytes because `COUNT` has 16 bits (R74, R75), and a reserved word is an illegal one (R77). -/
def Instr.wf : Instr → Bool
  | .init _       => true
  | .setcb _ _    => true
  | .setbaud _ r  => r != 0
  | .sendb _ _    => true
  | .enqb _ _     => true
  | .sendblk _ p  => decide (p.length < 2 ^ 16)
  | .startbuf _   => true
  | .recv _       => true
  | .flushrx _    => true
  | .rxempty _    => true
  | .txpend _     => true
  | .ovfcnt _     => true
  | .rxc0         => true
  | .txc0         => true
  | .rxc1         => true
  | .txc1         => true
  | .reserved w   => illegal w

end Sys2Proof
end

