-- ==== Sys2Proof/Safety.lean ====
section
/-! DEFINITION. What counts as a good state and a good run, in the terms the claims use: the invariants
(10_state.md rule R30, 42_tx_engine.md rule R177, 70_reset_and_hazards.md rules R273 and R281), the ends of a run
(60_exceptions.md rule R244), fairness (R260) and which transitions are enabled. -/

namespace Sys2Proof.Machine

/-! ### Which transitions are enabled -/

/-- The channel selector of a command; event vectors and illegal words have none. -/
def commandSel : Instr → Option Sel
  | .init ch      => some ch
  | .setcb ch _   => some ch
  | .setbaud ch _ => some ch
  | .sendb ch _   => some ch
  | .enqb ch _    => some ch
  | .sendblk ch _ => some ch
  | .startbuf ch  => some ch
  | .recv ch      => some ch
  | .flushrx ch   => some ch
  | .rxempty ch   => some ch
  | .txpend ch    => some ch
  | .ovfcnt ch    => some ch
  | .rxc0         => none
  | .txc0         => none
  | .rxc1         => none
  | .txc1         => none
  | .reserved _   => none

/-- The channel a command in progress works on. -/
def commandChan (i : Instr) : Option Chan := (commandSel i).bind selChan

/-- The micro-step at which a command of several micro-steps holds (R122, R124, R125). -/
def holdIndex : Instr → Option Nat
  | .sendb _ _   => some 0
  | .startbuf _  => some 2
  | .sendblk _ p => some (p.length + 3)
  | _            => none

/-- The command in progress holds: it is at its hold and its channel's TDR is full (R58). -/
def holding (s : State) : Bool :=
  match s.cc with
  | .idle       => false
  | .busy i k _ => decide (holdIndex i = some k) && ((commandChan i).any fun c => !halTdrEmpty c s)

/-- The transition a choice names is enabled (R211, R234, R251 to R253, R259, R58, R240). -/
def enabled (x : Choice) (s : State) : Bool :=
  match x with
  | .reset    => true
  | .call     => s.faults.isNone &&
      (match s.cc with | .idle => !s.cmds.isEmpty | .busy _ _ _ => !holding s)
  | .event ev => vectorEnabled ev s
  | x         => s.faults.isNone && (environmentStep s x).isSome

/-- The choices of the machine's own agents: the call context, the handlers, and the device's MOVE and SHIFT. Arrivals,
injections, refused requests and reset are inputs. -/
def machineChoices : List Choice :=
  [.call, .event 0, .event 1, .event 2, .event 3, .move .c0, .move .c1, .shift .c0, .shift .c1]

/-! ### Ends of a run (R244) -/

/-- (a) A good end. -/
def goodEnd (s : State) : Bool :=
  s.faults.isNone && !s.refused && decide (s.cc = .idle) && s.cmds.isEmpty && !anyHandlerEnabled s &&
  (s.hal.get .c0).tdr.isNone && (s.hal.get .c0).tsr.isNone && (s.hal.get .c1).tdr.isNone && (s.hal.get .c1).tsr.isNone

/-- (b) A faulted end. -/
def faultedEnd (s : State) : Bool := s.faults.isSome

/-- No transition is enabled: none of the machine's own agents, and no issue of a command the host still has (R211). -/
def noTransition (s : State) : Bool := machineChoices.all fun x => !enabled x s

/-- (c) Stuck: no transition is enabled and the run is neither good nor faulted. -/
def stuckEnd (s : State) : Bool := noTransition s && !goodEnd s && !faultedEnd s

/-! ### Runs -/

/-- The step in which choice `x` is taken at state `s`, whatever choices stand there. -/
def take (x : Choice) (s : State) : Host.Outcome State Fault Refusal := step { s with sched := x :: s.sched }

/-- An unending run: `pick n` is the choice taken at the `n`-th state. -/
def Run (at_ : Nat → State) (pick : Nat → Choice) : Prop := ∀ n, take (pick n) (at_ n) = .next (at_ (n + 1))

/-- A fair run owes the choice at this state (R260): MOVE or SHIFT while enabled (a), an enabled handler (b), and the call
context's micro-step while `cc` is busy and not holding (c). The issue of a command is an input and is never owed. -/
def owed (x : Choice) (s : State) : Bool :=
  match x with
  | .call        => enabled .call s && decide (s.cc ≠ .idle)
  | .event ev    => enabled (.event ev) s
  | .move c      => enabled (.move c) s
  | .shift c     => enabled (.shift c) s
  | .arrive _ _  => false
  | .injTxc _    => false
  | .injRx _ _   => false
  | .reset       => false
  | .forbidden _ => false

/-- Weak fairness (R260): a choice that stays owed is eventually taken. A premise of claims, not imposed (DEDUCED, log
entry 16). -/
def WeaklyFair (at_ : Nat → State) (pick : Nat → Choice) : Prop :=
  ∀ x n, (∀ m, n ≤ m → owed x (at_ m) = true) → ∃ m, n ≤ m ∧ pick m = x

/-- A step is eager when it is no call-context transition, or no handler is enabled (R281). -/
def eagerChoice (x : Choice) (s : State) : Bool := x != .call || !anyHandlerEnabled s

/-! ### Invariants -/

/-- `cc` is at a micro-step of a command that has several, on an initialised channel, with the locals that
micro-step finds (R22, R122, R124, R125). -/
def legalProgress (s : State) : Bool :=
  match s.cc with
  | .idle       => true
  | .busy i k L =>
    i.wf && ((commandChan i).any fun c => (s.ch.get c).init) &&
    match i with
    | .sendb _ _   => decide (k ≤ 1)
    | .startbuf _  => decide (1 ≤ k ∧ k ≤ 3) && (decide (k = 1) || L.b.isSome)
    | .sendblk _ p => decide (1 ≤ k ∧ k ≤ p.length + 4) && (decide (p.length < k) || decide (L.i + 1 = k)) &&
        (decide (k ≤ p.length + 2) || L.b.isSome)
    | _            => false

/-- What an initialised and an uninitialised channel look like (R21, R25, R30, R34, R36, R232, R257, R273). -/
def ChannelInv (s : State) (c : Chan) : Prop :=
  (s.tx.get c).wf ∧ (s.rx.get c).wf ∧
  (s.ch.get c).ovf ≤ s.cfg.ovfMax ∧
  (s.hal.get c).txie = (s.ch.get c).init ∧ (s.hal.get c).rxie = (s.ch.get c).init ∧
  ((s.hal.get c).rxcPend = true → (s.hal.get c).rdr.isSome = true) ∧
  ((s.ch.get c).init = true →
    (s.tx.get c).cap = s.cfg.capTx.get c ∧ (s.rx.get c).cap = s.cfg.capRx.get c ∧ 1 ≤ (s.hal.get c).baud) ∧
  ((s.ch.get c).init = false → (s.hal.get c).tdr = none ∧ (s.hal.get c).tsr = none)

/-- The invariant of every reachable state. -/
def MachineInv (s : State) : Prop := s.cfg.wf ∧ (∀ c, ChannelInv s c) ∧ legalProgress s = true

/-- The command in progress is past its `active <- true` and before its write (R176, state ARMED; R177). -/
def sendingStarted (s : State) (c : Chan) : Bool :=
  match s.cc with
  | .idle       => false
  | .busy i k _ => decide (commandChan i = some c) &&
    match i with
    | .startbuf _  => decide (1 ≤ k)
    | .sendblk _ p => decide (p.length + 2 ≤ k)
    | _            => false

/-- R177: a channel is ARMED only inside a STARTBUF or a SENDBLK. -/
def ArmedInv (s : State) : Prop := ∀ c, handshake (s.ch.get c) = .armed → sendingStarted s c = true

/-- R281, with what it rests on: `ready` means quiet; while handlers may run, a pending transmit-complete event means
an empty TDR and TSR; and an uninitialised channel's transmitter holds nothing. -/
def EagerInv (s : State) : Prop :=
  ∀ c, ((s.ch.get c).init = true → (s.ch.get c).ready = true → quiet s c = true) ∧
    (s.refused = false → (s.hal.get c).txcPend = true → (s.hal.get c).tdr = none ∧ (s.hal.get c).tsr = none) ∧
    ((s.ch.get c).init = false →
      (s.hal.get c).tdr = none ∧ (s.hal.get c).tsr = none ∧ (s.hal.get c).txcPend = false) ∧
    ((s.hal.get c).txie = (s.ch.get c).init)

/-! ### Sequences of ring primitives (R108, R109) -/

/-- One ring primitive of a sequence. -/
inductive RingOp where
  | push (b : Byte)
  | pop
deriving DecidableEq, Repr

/-- What a sequence of primitives leaves: the ring, the bytes `push_back` accepted and the bytes `pop_front`
returned, each in order. -/
structure RingRun where
  ring     : Ring
  accepted : List Byte
  popped   : List Byte
deriving DecidableEq, Repr

/-- Run a sequence of primitives on a ring; `none` where a pop meets an empty ring. `free` stands for what an
unspecified cell holds. -/
def ringRun (free : Byte) : List RingOp → Ring → Option RingRun
  | [], r             => some ⟨r, [], []⟩
  | .push b :: ops, r =>
    (ringRun free ops (r.pushBack b).2).map fun x =>
      { x with accepted := (if (r.pushBack b).1 then [b] else []) ++ x.accepted }
  | .pop :: ops, r    =>
    (r.popFront free).bind fun (b, r') => (ringRun free ops r').map fun x => { x with popped := b :: x.popped }

/-! ### The observation and the interleavings of a buffered transfer -/

/-- The bytes channel `c`'s line carried, in order (R27, `Line`). -/
def lineBytes (c : Chan) (tr : List Event) : List Byte :=
  tr.filterMap fun e => match e with
    | .line d b => if d = c then some b else none
    | _         => none

/-- The transmit-complete vector of a channel, `EV = 2c + 1` (R171). -/
def txcVector : Chan → BitVec 2
  | .c0 => 1
  | .c1 => 3

/-- The receive-complete vector of a channel, `EV = 2c` (R191). -/
def rxcVector : Chan → BitVec 2
  | .c0 => 0
  | .c1 => 2

/-- `n` transmit-complete events of channel `c`, each injected and serviced (free device model, R175, R259). -/
def injectedEvents (c : Chan) (n : Nat) : List Choice :=
  (List.replicate n [.injTxc c, .event (txcVector c)]).flatten

/-- `n` bytes going out on channel `c`: MOVE, SHIFT, and the transmit engine, for each (R178). -/
def byteTimes (c : Chan) (n : Nat) : List Choice :=
  (List.replicate n [.move c, .shift c, .event (txcVector c)]).flatten

/-- Bytes that arrive on channel `c`, each serviced by its handler before the next (R198). -/
def servicedArrivals (c : Chan) (bs : List Byte) : List Choice :=
  bs.flatMap fun b => [.arrive c b, .event (rxcVector c)]

/-! ### One channel apart from the other (R62) -/

/-- `s` with everything of the channel other than `c` taken from `x`. -/
def withOther (c : Chan) (x s : State) : State :=
  { s with
    ch := s.ch.set c.other (x.ch.get c.other), tx := s.tx.set c.other (x.tx.get c.other)
    rx := s.rx.set c.other (x.rx.get c.other), hal := s.hal.set c.other (x.hal.get c.other) }

/-- A change of the next state of an outcome. -/
def mapNext (f : State → State) : Host.Outcome State Fault Refusal → Host.Outcome State Fault Refusal
  | .next t    => .next (f t)
  | .fault x   => .fault x
  | .refused r => .refused r

/-- The channel an instruction works on: a command's, or an event vector's. -/
def instrChan : Instr → Option Chan
  | .rxc0 => some .c0
  | .txc0 => some .c0
  | .rxc1 => some .c1
  | .txc1 => some .c1
  | i     => commandChan i

/-- The channel a device step works on. -/
def deviceChan : Choice → Option Chan
  | .move c     => some c
  | .shift c    => some c
  | .arrive c _ => some c
  | .injTxc c   => some c
  | .injRx c _  => some c
  | _           => none

/-! ### When a command can be issued -/

/-- The call context may issue a command (R211). -/
def canIssue (s : State) : Prop := s.faults = none ∧ s.cc = .idle

/-- ... and `sel` names the initialised channel `c`, so a command on it passes the checks of R210. -/
def canIssueOn (s : State) (sel : Sel) (c : Chan) : Prop :=
  canIssue s ∧ selChan sel = some c ∧ (s.ch.get c).init = true

/-- Command `i` on the initialised channel `c` is at its micro-step `k` with locals `L` (R22). -/
def atMicroStep (s : State) (i : Instr) (sel : Sel) (c : Chan) (k : Nat) (L : Locals) : Prop :=
  s.faults = none ∧ s.cc = .busy i k L ∧ selChan sel = some c ∧ (s.ch.get c).init = true

/-- A handler's vector finds its channel initialised and its source enabled and pending (R234). -/
def canTake (s : State) (c : Chan) (kind : Kind) : Prop :=
  handlerEnabled s c kind = true ∧ (s.ch.get c).init = true

/-- `k` transitions of one instruction with nothing between them. -/
def execTimes (i : Instr) : Nat → State → Host.Outcome State Fault Refusal
  | 0, s     => .next s
  | k + 1, s =>
    match exec i s with
    | .next t    => execTimes i k t
    | .fault f   => .fault f
    | .refused r => .refused r

end Sys2Proof.Machine
end

