-- ==== Sys2Proof/Certificates/Slice0/Obligations.lean ====
section
/-! DEFINITION. The statements for the provers, in the order of OBLIGATIONS.json. Each docstring names the rules of
spec/ it rests on and, where one does, the log entry. -/

open Sys2Proof Sys2Proof.Machine

/-! ### Encoding -/

/-- R70 to R77, R85: no bit of an encoding is dropped. -/
def Obligations.DecodeOfEncodeIsTheInstruction : Prop :=
  ∀ i : Instr, i.wf = true → decode (encode i) = .ok i

/-- R77, R85: what a code decodes to is well-formed and is spelled by that code. -/
def Obligations.DecodedInstructionIsSpelledByItsCode : Prop :=
  ∀ (c : Code) (i : Instr), decode c = .ok i →
    i.wf = true ∧
    match c with
    | .vector ev => encode i = .vector ev
    | .command d => ∃ p, encode i = .command ⟨d.word, p⟩ ∧ ((∃ ch q, i = .sendblk ch q) → p = d.payload)

/-- R54, R75: a command in a byte stream is read back, and exactly its own bytes are consumed. -/
def Obligations.ByteStreamGivesBackCommandAndRest : Prop :=
  ∀ (i : Instr) (d : Delivery) (rest : List Byte), i.wf = true → encode i = .command d →
    decodeBytes (d.bytes ++ rest) = .ok (i, rest)

/-- spec/opcode_table.json and R77: a word is legal exactly when it is of one command row and breaks no note of the
table, and no word is of two rows. -/
def Obligations.OpcodeTableAgreesWithDecoder : Prop :=
  (∀ w : Word, illegal w = !(inTable w && !tableNote w)) ∧
  opcodeRows.Pairwise fun a b => ∀ w : Word, ¬(w &&& a.mask = a.pat ∧ w &&& b.mask = b.pat)

/-- R71, R76, 95_test_vectors.md section 2.1: the example words decode to the instructions the spec writes beside
them. -/
def Obligations.SpecExampleWordsDecode : Prop :=
  decode (.command ⟨0x10000000, []⟩) = .ok (.init 0) ∧
  decode (.command ⟨0x20000107, []⟩) = .ok (.setcb 0 (some 7)) ∧
  decode (.command ⟨0x20000000, []⟩) = .ok (.setcb 0 none) ∧
  decode (.command ⟨0x30002580, []⟩) = .ok (.setbaud 0 9600) ∧
  decode (.command ⟨0x40000041, []⟩) = .ok (.sendb 0 0x41) ∧
  decode (.command ⟨0x51000055, []⟩) = .ok (.enqb 1 0x55) ∧
  decode (.command ⟨0x60000003, [0x48, 0x69, 0x21]⟩) = .ok (.sendblk 0 [0x48, 0x69, 0x21]) ∧
  decode (.command ⟨0x70000000, []⟩) = .ok (.startbuf 0) ∧
  decode (.command ⟨0x80000000, []⟩) = .ok (.recv 0) ∧
  decode (.command ⟨0x91000000, []⟩) = .ok (.flushrx 1) ∧
  decode (.command ⟨0xA1000000, []⟩) = .ok (.rxempty 1) ∧
  decode (.command ⟨0xB0000000, []⟩) = .ok (.txpend 0) ∧
  decode (.command ⟨0xC1000000, []⟩) = .ok (.ovfcnt 1) ∧
  decode (.command ⟨0x20000007, []⟩) = .ok (.reserved 0x20000007) ∧
  decode (.vector 0) = .ok .rxc0 ∧ decode (.vector 1) = .ok .txc0 ∧
  decode (.vector 2) = .ok .rxc1 ∧ decode (.vector 3) = .ok .txc1

/-! ### The step -/

/-- R22, R210, R211: the call context, idle, takes the host's next command, and the step is that command's meaning past
the choice and the delivery it consumes; while a command is in progress the step is that command's meaning, past the
choice. That both are consumed whatever comes of the transition is the model's own choice (log entry 5). -/
def Obligations.StepRunsTheCallContextsCommand : Prop :=
  (∀ (s : State) (rest : List Choice) (d : Delivery) (ds : List Delivery) (i : Instr),
    s.faults = none → s.cc = .idle → s.sched = .call :: rest → s.cmds = d :: ds → decode (.command d) = .ok i →
    step s = exec i { s with sched := rest, cmds := ds }) ∧
  (∀ (s : State) (rest : List Choice) (i : Instr) (k : Nat) (L : Locals),
    s.faults = none → s.cc = .busy i k L → s.sched = .call :: rest →
    step s = exec i { s with sched := rest })

/-- R76, R234: a dispatched vector runs its handler when that handler is enabled, and only then; a choice of one that
is not enabled passes (log entry 7). -/
def Obligations.StepRunsExactlyTheEnabledHandler : Prop :=
  ∀ (s : State) (rest : List Choice) (ev : BitVec 2) (c : Chan) (kind : Kind) (i : Instr),
    (ev, c, kind, i) ∈ [((0 : BitVec 2), Chan.c0, Kind.rxc, Instr.rxc0), (1, .c0, .txc, .txc0),
      (2, .c1, .rxc, .rxc1), (3, .c1, .txc, .txc1)] →
    s.faults = none → s.sched = .event ev :: rest →
    ((s.hal.get c).pending kind = true ∧ (s.hal.get c).enable kind = true ∧ s.refused = false →
      step s = exec i { s with sched := rest }) ∧
    (¬((s.hal.get c).pending kind = true ∧ (s.hal.get c).enable kind = true ∧ s.refused = false) →
      step s = .next { s with sched := rest })

/-- R33, R240: in a faulted state no transition but a hardware reset is enabled: no instruction has one, and the
machine stops with the recorded fault. -/
def Obligations.FaultedMachineStaysStopped : Prop :=
  ∀ (s : State) (f : Fault), s.faults = some f →
    (∀ i, exec i s = .fault f) ∧ ((∀ rest, s.sched ≠ .reset :: rest) → step s = .fault f)

/-- R270: a hardware reset, taken at any state, makes both channels uninitialised, gives every other field its value of
R35, leaves the rates open as R35 does, and keeps the trace. -/
def Obligations.HardwareResetAtAnyState : Prop :=
  ∀ (s : State) (rest : List Choice), s.sched = .reset :: rest →
    ∃ t, step s = .next t ∧
      (∀ c, (t.ch.get c).init = false) ∧
      (∀ c, ∃ baud, t.hal.get c = {
        tdr := none, tsr := none, rdr := none, txcPend := false, rxcPend := false
        txie := false, rxie := false, baud := baud, lost := 0 }) ∧
      t.cc = .idle ∧ t.faults = none ∧ t.refused = false ∧ t.trace = s.trace

/-- R35: the state at power-on, under every configuration and with every rate, and `State.reset` is one of them. -/
def Obligations.PowerOnValues : Prop :=
  (∀ (cfg : Config) (baud : PerChan Nat) (c : Chan),
    ((State.resetIn cfg baud).ch.get c).init = false ∧
    (State.resetIn cfg baud).hal.get c = {
      tdr := none, tsr := none, rdr := none, txcPend := false, rxcPend := false
      txie := false, rxie := false, baud := baud.get c, lost := 0 } ∧
    (State.resetIn cfg baud).cc = .idle ∧ (State.resetIn cfg baud).faults = none ∧
    (State.resetIn cfg baud).refused = false ∧ (State.resetIn cfg baud).trace = []) ∧
  ∃ cfg baud, cfg.wf ∧ State.reset = State.resetIn cfg baud

/-- R242: X2 sets `refused` and does nothing else, and so does a request of X1, X3 or X4. The model's own choice (log
entry 11): such requests are choices of the interleaving, X2 is found before the checks of R210, whatever the selector
and the channel, and the delivery is consumed. -/
def Obligations.RefusedRequestsOnlySetTheFlag : Prop :=
  (∀ (s : State) (rest : List Choice) (d : Delivery) (ds : List Delivery),
    s.faults = none → s.cc = .idle → s.sched = .call :: rest → s.cmds = d :: ds →
    illegal d.word = false → opField d.word = 6 → d.payload.length ≠ (countField d.word).toNat →
    step s = .next { s with sched := rest, cmds := ds, refused := true }) ∧
  (∀ (s : State) (rest : List Choice) (x : Forbidden), s.faults = none → s.sched = .forbidden x :: rest →
    step s = .next { s with sched := rest, refused := true })

/-! ### Decode checks at issue (R210) -/

/-- R77: an illegal command word responds ERR_ILLEGAL with value 0, consumes no payload and changes no state. That a
payload delivered with it is ignored is the model's own choice (log entry 13). -/
def Obligations.IllegalWordRespondsErrIllegal : Prop :=
  ∀ (w : Word) (p : List Byte) (s : State), illegal w = true → canIssue s →
    decode (.command ⟨w, p⟩) = .ok (.reserved w) ∧ payloadLength w = 0 ∧
    exec (.reserved w) s = .next { s with trace := s.trace ++ [.resp .errIllegal 0] }

/-- R72: selectors 0 and 1 name the channels; a command whose selector is 2 or 3 responds ERR_CHANNEL and changes no
state. -/
def Obligations.SelectorOutOfRangeRespondsErrChannel : Prop :=
  selChan 0 = some .c0 ∧ selChan 1 = some .c1 ∧
  ∀ (i : Instr) (sel : Sel) (s : State), commandSel i = some sel → (sel = 2 ∨ sel = 3) → canIssue s →
    exec i s = .next { s with trace := s.trace ++ [.resp .errChannel 0] }

/-- R215: a command other than INIT on a channel that is not initialised faults UNINIT at issue, and nothing else
happens (R240). -/
def Obligations.UninitialisedChannelFaultsUninit : Prop :=
  ∀ (i : Instr) (sel : Sel) (c : Chan) (s : State), commandSel i = some sel → selChan sel = some c →
    (∀ ch, i ≠ .init ch) → (s.ch.get c).init = false → canIssue s →
    exec i s = .next { s with faults := some .uninit }

/-! ### Channel control -/

/-- R212, R36: INIT gives an uninitialised channel the values of R36 and changes nothing else; of an initialised one it
is the fault REINIT. What the new rings' cells hold is left open (R31). -/
def Obligations.InitGivesTheDefaultState : Prop :=
  ∀ (sel : Sel) (c : Chan) (s : State), canIssue s → selChan sel = some c →
    ((s.ch.get c).init = false → ∃ tx rx : Ring,
      exec (.init sel) s = .next { s with
        ch := s.ch.set c { init := true, ready := true, active := false, ovf := 0, cb := none }
        tx := s.tx.set c tx, rx := s.rx.set c rx
        hal := s.hal.set c { s.hal.get c with baud := s.cfg.defaultBaud, txie := true, rxie := true }
        trace := s.trace ++ [.setBaud c s.cfg.defaultBaud, .resp .ok 0] } ∧
      tx.cap = s.cfg.capTx.get c ∧ tx.head = 0 ∧ tx.tail = 0 ∧ tx.len = 0 ∧
      rx.cap = s.cfg.capRx.get c ∧ rx.head = 0 ∧ rx.tail = 0 ∧ rx.len = 0) ∧
    ((s.ch.get c).init = true → exec (.init sel) s = .next { s with faults := some .reinit })

/-- R213: INIT is allowed once per channel per reset: it completes on an uninitialised channel, faults REINIT on an
initialised one, and only a hardware reset makes a channel uninitialised; until then its rings are never resized. -/
def Obligations.InitIsAllowedOncePerReset : Prop :=
  (∀ (sel : Sel) (c : Chan) (s : State), canIssue s → selChan sel = some c →
    ((s.ch.get c).init = false → ∃ t, exec (.init sel) s = .next t ∧ t.faults = none ∧ (t.ch.get c).init = true) ∧
    ((s.ch.get c).init = true → exec (.init sel) s = .next { s with faults := some .reinit })) ∧
  (∀ (s t : State) (c : Chan), (s.ch.get c).init = true → (∀ rest, s.sched ≠ .reset :: rest) → step s = .next t →
    (t.ch.get c).init = true ∧ (t.tx.get c).cap = (s.tx.get c).cap ∧ (t.rx.get c).cap = (s.rx.get c).cap)

/-- R130: SETCB installs or clears the callback and changes nothing else. -/
def Obligations.SetcbWritesTheCallbackSlot : Prop :=
  ∀ (sel : Sel) (c : Chan) (cb : Option Token) (s : State), canIssueOn s sel c →
    exec (.setcb sel cb) s = .next { s with
      ch := s.ch.set c { s.ch.get c with cb := cb }, trace := s.trace ++ [.resp .ok 0] }

/-- R214: SETBAUD applies the rate when no byte is in flight and no buffered transfer is active, and faults
BAUD_IN_FLIGHT otherwise. -/
def Obligations.SetbaudAppliesTheRateOrFaults : Prop :=
  ∀ (sel : Sel) (c : Chan) (rate : Rate) (s : State), canIssueOn s sel c →
    ((s.ch.get c).ready = true ∧ (s.ch.get c).active = false →
      exec (.setbaud sel rate) s = .next { s with
        hal := s.hal.set c { s.hal.get c with baud := rate.toNat }
        trace := s.trace ++ [.setBaud c rate.toNat, .resp .ok 0] }) ∧
    ((s.ch.get c).ready = false ∨ (s.ch.get c).active = true →
      exec (.setbaud sel rate) s = .next { s with faults := some .baudInFlight })

/-! ### The transmit commands -/

/-- R123, R104: ENQB stores its byte at the tail cell when there is room, drops it silently when there is none, and
responds OK either way; every other cell and everything else is unchanged. -/
def Obligations.EnqbStoresOrDropsItsByte : Prop :=
  ∀ (sel : Sel) (c : Chan) (b : Byte) (s : State), canIssueOn s sel c →
    ((s.tx.get c).len < (s.tx.get c).cap →
      ∃ r : Ring, exec (.enqb sel b) s = .next { s with tx := s.tx.set c r, trace := s.trace ++ [.resp .ok 0] } ∧
        r.cap = (s.tx.get c).cap ∧ r.head = (s.tx.get c).head ∧
        r.tail = ((s.tx.get c).tail + 1) % (s.tx.get c).cap ∧ r.len = (s.tx.get c).len + 1 ∧
        Memory.read r.store (s.tx.get c).tail = some b ∧
        ∀ a, a ≠ (s.tx.get c).tail → Memory.read r.store a = Memory.read (s.tx.get c).store a) ∧
    ((s.tx.get c).cap ≤ (s.tx.get c).len →
      exec (.enqb sel b) s = .next { s with trace := s.trace ++ [.resp .ok 0] })

/-- R122, R210: SENDB's issue ends at its hold when the TDR is full and past it when the TDR is empty, and nothing else
changes. Issued with the TDR empty and nothing run in between, it completes in two transitions: the byte is in the TDR,
`ready` is false, and nothing else but the trace has changed. -/
def Obligations.SendbHoldsOnAFullTdrElseCompletes : Prop :=
  ∀ (sel : Sel) (c : Chan) (b : Byte) (s : State), canIssueOn s sel c →
    exec (.sendb sel b) s = .next { s with
      cc := .busy (.sendb sel b) (if (s.hal.get c).tdr = none then 1 else 0) ⟨none, 0⟩ } ∧
    ((s.hal.get c).tdr = none → execTimes (.sendb sel b) 2 s = .next { s with
      hal := s.hal.set c { s.hal.get c with tdr := some b }
      ch := s.ch.set c { s.ch.get c with ready := false }
      trace := s.trace ++ [.tdrWrite c b .facade, .resp .ok 0] })

/-- R58, R121: the hold of SENDB (k0), STARTBUF (k2) and SENDBLK (k(n+3)) advances when the TDR is empty and does
nothing else; while the TDR is full nothing happens. -/
def Obligations.HoldAdvancesOnlyOnAnEmptyTdr : Prop :=
  ∀ (i : Instr) (sel : Sel) (c : Chan) (k : Nat) (L : Locals) (s : State),
    ((∃ b, i = .sendb sel b ∧ k = 0) ∨ (i = .startbuf sel ∧ k = 2) ∨ (∃ p, i = .sendblk sel p ∧ k = p.length + 3)) →
    atMicroStep s i sel c k L →
    ((s.hal.get c).tdr = none → exec i s = .next { s with cc := .busy i (k + 1) L }) ∧
    ((s.hal.get c).tdr ≠ none → exec i s = .next s)

/-- R121, R256, R240: the facade's write, the last micro-step of SENDB, STARTBUF and SENDBLK. Where the TDR takes the
byte, the byte is in the TDR, `ready` is false and the command has responded OK, in one transition that changes nothing
else; in the reference model a full TDR makes it the fault TDR_OVERRUN and nothing else. -/
def Obligations.FacadeWriteOrTdrOverrun : Prop :=
  ∀ (i : Instr) (sel : Sel) (c : Chan) (k : Nat) (L : Locals) (b : Byte) (s : State),
    ((i = .sendb sel b ∧ k = 1) ∨ (i = .startbuf sel ∧ k = 3 ∧ L.b = some b) ∨
      (∃ p, i = .sendblk sel p ∧ k = p.length + 4 ∧ L.b = some b)) →
    atMicroStep s i sel c k L →
    ((s.hal.get c).tdr = none ∨ s.cfg.envModel = .free →
      exec i s = .next { s with
        hal := s.hal.set c { s.hal.get c with tdr := some b }
        ch := s.ch.set c { s.ch.get c with ready := false }
        cc := .idle, trace := s.trace ++ [.tdrWrite c b .facade, .resp .ok 0] }) ∧
    ((s.hal.get c).tdr ≠ none ∧ s.cfg.envModel = .reference →
      exec i s = .next { s with faults := some .tdrOverrun })

/-- R124: STARTBUF's issue sets `active` and nothing else. -/
def Obligations.StartbufIssueSetsActive : Prop :=
  ∀ (sel : Sel) (c : Chan) (s : State), canIssueOn s sel c →
    exec (.startbuf sel) s = .next { s with
      ch := s.ch.set c { s.ch.get c with active := true }, cc := .busy (.startbuf sel) 1 ⟨none, 0⟩ }

/-- R105, R124, R125: the facade's pop. An empty ring makes it the fault POP_EMPTY and nothing else; otherwise the
oldest byte goes from the ring to `L.b` and nothing else changes. The byte is the one its cell holds; where that is
unspecified it is any byte (log entry 2). -/
def Obligations.FacadePopOrPopEmpty : Prop :=
  ∀ (i : Instr) (sel : Sel) (c : Chan) (k : Nat) (L : Locals) (s : State),
    ((i = .startbuf sel ∧ k = 1) ∨ (∃ p, i = .sendblk sel p ∧ k = p.length + 2)) →
    atMicroStep s i sel c k L →
    ((s.tx.get c).len = 0 → exec i s = .next { s with faults := some .popEmpty }) ∧
    ((s.tx.get c).len ≠ 0 → ∃ (b : Byte) (n : Nat),
      exec i s = .next { s with
        tx := s.tx.set c { s.tx.get c with
          head := ((s.tx.get c).head + 1) % (s.tx.get c).cap, len := (s.tx.get c).len - 1 }
        cc := .busy i (k + 1) { L with b := some b }, draws := n } ∧
      ∀ x, Memory.read (s.tx.get c).store (s.tx.get c).head = some x → b = x ∧ n = s.draws)

/-- R124: STARTBUF, issued with a byte queued, the TDR empty and nothing run in between, completes in four
transitions: the oldest byte has left the ring for the TDR, `active` is true and `ready` false. -/
def Obligations.StartbufCompletesWithAnEmptyTdr : Prop :=
  ∀ (sel : Sel) (c : Chan) (b : Byte) (s : State), canIssueOn s sel c → (s.hal.get c).tdr = none →
    (s.tx.get c).len ≠ 0 → Memory.read (s.tx.get c).store (s.tx.get c).head = some b →
    execTimes (.startbuf sel) 4 s = .next { s with
      tx := s.tx.set c { s.tx.get c with
        head := ((s.tx.get c).head + 1) % (s.tx.get c).cap, len := (s.tx.get c).len - 1 }
      hal := s.hal.set c { s.hal.get c with tdr := some b }
      ch := s.ch.set c { s.ch.get c with ready := false, active := true }
      trace := s.trace ++ [.tdrWrite c b .facade, .resp .ok 0] }

/-- R125, R132: SENDBLK succeeds if and only if `n > 0` and `occupancy + n < capacity`; on failure it responds FAIL
with no other effect, on success it goes on to its first push with no effect yet. -/
def Obligations.SendblkHeadroomIsStrict : Prop :=
  ∀ (sel : Sel) (c : Chan) (p : List Byte) (s : State), canIssueOn s sel c →
    (0 < p.length ∧ (s.tx.get c).len + p.length < (s.tx.get c).cap →
      exec (.sendblk sel p) s = .next { s with cc := .busy (.sendblk sel p) 1 ⟨none, 0⟩ }) ∧
    (¬(0 < p.length ∧ (s.tx.get c).len + p.length < (s.tx.get c).cap) →
      exec (.sendblk sel p) s = .next { s with trace := s.trace ++ [.resp .fail 0] })

/-- R125 k1 to kn, R104: one payload byte goes to the tail cell and nothing else changes; a push that finds no room,
which no reachable state shows, drops it. After the last byte comes `active <- true`. -/
def Obligations.SendblkCopiesOneByteAtATime : Prop :=
  ∀ (sel : Sel) (c : Chan) (p : List Byte) (k : Nat) (L : Locals) (s : State),
    atMicroStep s (.sendblk sel p) sel c k L →
    (∀ b, 1 ≤ k → k ≤ p.length → p[L.i]? = some b →
      ((s.tx.get c).len < (s.tx.get c).cap →
        ∃ r : Ring,
          exec (.sendblk sel p) s = .next { s with
            tx := s.tx.set c r, cc := .busy (.sendblk sel p) (k + 1) { L with i := L.i + 1 } } ∧
          r.cap = (s.tx.get c).cap ∧ r.head = (s.tx.get c).head ∧
          r.tail = ((s.tx.get c).tail + 1) % (s.tx.get c).cap ∧ r.len = (s.tx.get c).len + 1 ∧
          Memory.read r.store (s.tx.get c).tail = some b ∧
          ∀ a, a ≠ (s.tx.get c).tail → Memory.read r.store a = Memory.read (s.tx.get c).store a) ∧
      ((s.tx.get c).cap ≤ (s.tx.get c).len →
        exec (.sendblk sel p) s = .next { s with cc := .busy (.sendblk sel p) (k + 1) { L with i := L.i + 1 } })) ∧
    (k = p.length + 1 →
      exec (.sendblk sel p) s = .next { s with
        ch := s.ch.set c { s.ch.get c with active := true }, cc := .busy (.sendblk sel p) (k + 1) L })

/-- R125, R133: a SENDBLK that fits, issued with the TDR empty and nothing run in between, completes in `n + 5`
transitions. Exactly one byte has left the ring, the front of the queue with the payload behind it, and it is in the
TDR; `active` is true and `ready` false; occupancy is `occupancy_at_k0 + n - 1`; nothing else has changed. -/
def Obligations.SendblkCompletesAllOrNothing : Prop :=
  ∀ (sel : Sel) (c : Chan) (p : List Byte) (s : State), canIssueOn s sel c → (s.hal.get c).tdr = none →
    (s.tx.get c).wf → 0 < p.length → (s.tx.get c).len + p.length < (s.tx.get c).cap →
    ∃ (b : Byte) (r : Ring),
      execTimes (.sendblk sel p) (p.length + 5) s = .next { s with
        tx := s.tx.set c r
        hal := s.hal.set c { s.hal.get c with tdr := some b }
        ch := s.ch.set c { s.ch.get c with ready := false, active := true }
        trace := s.trace ++ [.tdrWrite c b .facade, .resp .ok 0] } ∧
      some b :: r.queue = (s.tx.get c).queue ++ p.map some ∧
      r.len = (s.tx.get c).len + p.length - 1 ∧ r.cap = (s.tx.get c).cap ∧ r.wf

/-! ### The receive commands and the queries -/

/-- R126: RECV returns and removes the oldest byte, or responds NODATA; nothing else changes. The byte is the one its
cell holds; where that is unspecified it is any byte (log entry 2). -/
def Obligations.RecvTakesTheOldestByteOrNoData : Prop :=
  ∀ (sel : Sel) (c : Chan) (s : State), canIssueOn s sel c →
    (0 < (s.rx.get c).cap ∧ 0 < (s.rx.get c).len → ∃ (b : Byte) (n : Nat),
      exec (.recv sel) s = .next { s with
        rx := s.rx.set c { s.rx.get c with
          head := ((s.rx.get c).head + 1) % (s.rx.get c).cap, len := (s.rx.get c).len - 1 }
        trace := s.trace ++ [.resp .ok (b.setWidth 28)], draws := n } ∧
      ∀ x, Memory.read (s.rx.get c).store (s.rx.get c).head = some x → b = x ∧ n = s.draws) ∧
    (¬(0 < (s.rx.get c).cap ∧ 0 < (s.rx.get c).len) →
      exec (.recv sel) s = .next { s with trace := s.trace ++ [.resp .noData 0] })

/-- R127, R106: FLUSHRX empties the receive ring, indices 0, and touches nothing else, the overflow counter, the
callback, the RDR and the pending flag among them; RXEMPTY after it reports true. What the cells hold is left open
(R31). -/
def Obligations.FlushrxEmptiesTheReceiveRing : Prop :=
  ∀ (sel : Sel) (c : Chan) (s : State), canIssueOn s sel c →
    ∃ (r : Ring) (t : State),
      t = { s with rx := s.rx.set c r, trace := s.trace ++ [.resp .ok 0] } ∧
      exec (.flushrx sel) s = .next t ∧
      r.cap = (s.rx.get c).cap ∧ r.head = 0 ∧ r.tail = 0 ∧ r.len = 0 ∧
      exec (.rxempty sel) t = .next { t with trace := t.trace ++ [.resp .ok 1] }

/-- R38: the derived status values RXEMPTY and TXPEND report, and that reporting them writes nothing. -/
def Obligations.StatusQueriesReportAndWriteNothing : Prop :=
  ∀ (sel : Sel) (c : Chan) (s : State), canIssueOn s sel c →
    exec (.rxempty sel) s = .next { s with
      trace := s.trace ++ [.resp .ok (if (s.rx.get c).len = 0 then 1 else 0)] } ∧
    exec (.txpend sel) s = .next { s with
      trace := s.trace ++ [.resp .ok (if (s.ch.get c).ready = false then 1 else 0)] }

/-- R131: OVFCNT reports the counter, which it does not clear, and writes nothing. -/
def Obligations.OvfcntReportsTheCounter : Prop :=
  ∀ (sel : Sel) (c : Chan) (s : State), canIssueOn s sel c → (s.ch.get c).ovf < 2 ^ 28 →
    ∃ v : BitVec 28, v.toNat = (s.ch.get c).ovf ∧
      exec (.ovfcnt sel) s = .next { s with trace := s.trace ++ [.resp .ok v] }

/-- R83: RECV's "no data" response is the word 0x20000000, its response with a byte is that byte's word, at most
0x000000FF, and the two are never the same word. -/
def Obligations.NoDataWordIsNoByteWord : Prop :=
  (∀ (sel : Sel) (c : Chan) (s : State), canIssueOn s sel c →
    ∃ (t : State) (st : Status) (v : BitVec 28), exec (.recv sel) s = .next t ∧ t.trace = s.trace ++ [.resp st v] ∧
      ((st = .noData ∧ v = 0 ∧ responseWord st v = 0x20000000) ∨
       ∃ b : Byte, st = .ok ∧ v = zextByte b ∧ responseWord st v = b.setWidth 32)) ∧
  ∀ b : Byte, (responseWord .ok (zextByte b)).toNat = b.toNat ∧
    responseWord .ok (zextByte b) ≠ responseWord .noData 0

/-! ### The handlers -/

/-- R171, R172, R256: the transmit engine in its three branches. In state SINGLE_BYTE, and in state BUFFERED with an
empty ring, it sets the done values; in state BUFFERED with a byte queued it pops the oldest and writes it to the TDR,
`ready` unchanged, and in the reference model a full TDR makes that write the fault TDR_OVERRUN and nothing else.
Nothing else but the pending flag changes. The byte is the one its cell holds; where that is unspecified it is any byte
(log entry 2). -/
def Obligations.TransmitEngineSetsDoneOrFeedsTheNextByte : Prop :=
  ∀ (i : Instr) (c : Chan) (s : State), (i, c) ∈ [(Instr.txc0, Chan.c0), (.txc1, .c1)] → canTake s c .txc →
    ((s.ch.get c).active = false ∨ (s.tx.get c).len = 0 →
      exec i s = .next { s with
        ch := s.ch.set c { s.ch.get c with ready := true, active := false }
        hal := s.hal.set c { s.hal.get c with txcPend := false } }) ∧
    ((s.ch.get c).active = true → (s.tx.get c).len ≠ 0 → (s.hal.get c).tdr = none ∨ s.cfg.envModel = .free →
      ∃ (b : Byte) (n : Nat),
        exec i s = .next { s with
          tx := s.tx.set c { s.tx.get c with
            head := ((s.tx.get c).head + 1) % (s.tx.get c).cap, len := (s.tx.get c).len - 1 }
          hal := s.hal.set c { s.hal.get c with txcPend := false, tdr := some b }
          trace := s.trace ++ [.tdrWrite c b .engine], draws := n } ∧
        ∀ x, Memory.read (s.tx.get c).store (s.tx.get c).head = some x → b = x ∧ n = s.draws) ∧
    ((s.ch.get c).active = true → (s.tx.get c).len ≠ 0 → (s.hal.get c).tdr ≠ none ∧ s.cfg.envModel = .reference →
      exec i s = .next { s with faults := some .tdrOverrun })

/-- R197, R192: with a callback installed the receive engine invokes it with the byte the RDR held, and leaves the
receive ring, the overflow counter and everything else but the RDR unchanged. -/
def Obligations.ReceiveEngineInvokesTheCallback : Prop :=
  ∀ (i : Instr) (c : Chan) (b : Byte) (tok : Token) (s : State),
    (i, c) ∈ [(Instr.rxc0, Chan.c0), (.rxc1, .c1)] → canTake s c .rxc →
    (s.hal.get c).rdr = some b → (s.ch.get c).cb = some tok →
    exec i s = .next { s with
      hal := s.hal.set c { s.hal.get c with rdr := none, rxcPend := false }
      trace := s.trace ++ [.callback c tok b] }

/-- R191, R194, R104: with no callback and room in the ring, the receive engine stores the byte at the tail cell; every
other cell and everything else but the RDR is unchanged. -/
def Obligations.ReceiveEngineBuffersTheByte : Prop :=
  ∀ (i : Instr) (c : Chan) (b : Byte) (s : State),
    (i, c) ∈ [(Instr.rxc0, Chan.c0), (.rxc1, .c1)] → canTake s c .rxc →
    (s.hal.get c).rdr = some b → (s.ch.get c).cb = none → (s.rx.get c).len < (s.rx.get c).cap →
    ∃ r : Ring,
      exec i s = .next { s with
        hal := s.hal.set c { s.hal.get c with rdr := none, rxcPend := false }, rx := s.rx.set c r } ∧
      r.cap = (s.rx.get c).cap ∧ r.head = (s.rx.get c).head ∧
      r.tail = ((s.rx.get c).tail + 1) % (s.rx.get c).cap ∧ r.len = (s.rx.get c).len + 1 ∧
      Memory.read r.store (s.rx.get c).tail = some b ∧
      ∀ a, a ≠ (s.rx.get c).tail → Memory.read r.store a = Memory.read (s.rx.get c).store a

/-- R195, R196: with no callback and a full ring, the receive engine leaves the ring as it is and applies `ovf_inc`
once: up by one below the maximum, and at the maximum 0 or unchanged as `OVF_AT_MAX` says. -/
def Obligations.ReceiveEngineCountsTheDroppedByte : Prop :=
  ∀ (i : Instr) (c : Chan) (b : Byte) (s : State),
    (i, c) ∈ [(Instr.rxc0, Chan.c0), (.rxc1, .c1)] → canTake s c .rxc →
    (s.hal.get c).rdr = some b → (s.ch.get c).cb = none → (s.rx.get c).cap ≤ (s.rx.get c).len →
    ∃ v : Nat,
      exec i s = .next { s with
        hal := s.hal.set c { s.hal.get c with rdr := none, rxcPend := false }
        ch := s.ch.set c { s.ch.get c with ovf := v } } ∧
      ((s.ch.get c).ovf < 2 ^ s.cfg.ovfWidth - 1 → v = (s.ch.get c).ovf + 1) ∧
      (2 ^ s.cfg.ovfWidth - 1 ≤ (s.ch.get c).ovf → s.cfg.ovfAtMax = .wrap → v = 0) ∧
      (2 ^ s.cfg.ovfWidth - 1 ≤ (s.ch.get c).ovf → s.cfg.ovfAtMax = .saturate → v = (s.ch.get c).ovf)

/-- R257, R191: an RDR that holds no byte makes the receive engine's read the fault RDR_EMPTY. -/
def Obligations.ReadOfAnEmptyRdrFaults : Prop :=
  ∀ (i : Instr) (c : Chan) (s : State), (i, c) ∈ [(Instr.rxc0, Chan.c0), (.rxc1, .c1)] → canTake s c .rxc →
    (s.hal.get c).rdr = none → exec i s = .next { s with faults := some .rdrEmpty }

/-- R237: taking a handler leaves the call context's progress, locals included, as it was; no enable flag and no input
changes either (R238). -/
def Obligations.HandlersLeaveTheCallContextAlone : Prop :=
  ∀ (i : Instr) (s t : State), i ∈ [Instr.rxc0, .txc0, .rxc1, .txc1] → exec i s = .next t →
    t.cc = s.cc ∧ t.cmds = s.cmds ∧ t.sched = s.sched ∧ t.cfg = s.cfg ∧ t.refused = s.refused ∧
    ∀ c, (t.hal.get c).txie = (s.hal.get c).txie ∧ (t.hal.get c).rxie = (s.hal.get c).rxie

/-! ### The device -/

/-- R251: MOVE is enabled exactly when the TDR is full and the TSR empty; it moves the byte, which leaves the TDR empty,
and changes nothing else. -/
def Obligations.MoveLoadsTheShiftRegister : Prop :=
  ∀ (c : Chan) (s : State), s.faults = none →
    (enabled (.move c) s = true ↔ (s.hal.get c).tdr ≠ none ∧ (s.hal.get c).tsr = none) ∧
    ∀ (rest : List Choice) (b : Byte), s.sched = .move c :: rest →
      (s.hal.get c).tdr = some b → (s.hal.get c).tsr = none →
      step s = .next { s with sched := rest, hal := s.hal.set c { s.hal.get c with tsr := some b, tdr := none } }

/-- R252: SHIFT is enabled exactly when the TSR holds a byte; the byte goes out on the line, and the transmit-complete
event is raised exactly when no byte waits in the TDR. Nothing else changes. -/
def Obligations.ShiftPutsTheByteOnTheLine : Prop :=
  ∀ (c : Chan) (s : State), s.faults = none →
    (enabled (.shift c) s = true ↔ (s.hal.get c).tsr ≠ none) ∧
    ∀ (rest : List Choice) (b : Byte), s.sched = .shift c :: rest → (s.hal.get c).tsr = some b →
      ((s.hal.get c).tdr = none →
        step s = .next { s with
          sched := rest, trace := s.trace ++ [.line c b]
          hal := s.hal.set c { s.hal.get c with tsr := none, txcPend := true } }) ∧
      ((s.hal.get c).tdr ≠ none →
        step s = .next { s with
          sched := rest, trace := s.trace ++ [.line c b]
          hal := s.hal.set c { s.hal.get c with tsr := none } })

/-- R253: a byte that arrives goes to an empty RDR and raises the receive-complete event; while the RDR is full the
device drops and counts it. -/
def Obligations.ArrivalFillsTheRdrOrIsLost : Prop :=
  ∀ (c : Chan) (b : Byte) (s : State) (rest : List Choice), s.faults = none → s.sched = .arrive c b :: rest →
    ((s.hal.get c).rdr = none →
      step s = .next { s with
        sched := rest
        hal := s.hal.set c { s.hal.get c with rdr := some b, rxcPend := true } }) ∧
    ((s.hal.get c).rdr ≠ none →
      step s = .next { s with
        sched := rest
        hal := s.hal.set c { s.hal.get c with lost := (s.hal.get c).lost + 1 } })

/-- R259: the injected events are enabled in the free device model, and only there; an injected byte replaces the one in
the RDR and `lost` stays. In that model a write to a full TDR, by either writer, does not fault. -/
def Obligations.InjectionsAreOfTheFreeModel : Prop :=
  ∀ (c : Chan) (b : Byte) (s : State), s.faults = none →
    (enabled (.injTxc c) s = true ↔ s.cfg.envModel = .free) ∧
    (enabled (.injRx c b) s = true ↔ s.cfg.envModel = .free) ∧
    (s.cfg.envModel = .free →
      (∀ rest, s.sched = .injTxc c :: rest →
        step s = .next { s with sched := rest, hal := s.hal.set c { s.hal.get c with txcPend := true } }) ∧
      (∀ rest, s.sched = .injRx c b :: rest →
        step s = .next { s with
          sched := rest, hal := s.hal.set c { s.hal.get c with rdr := some b, rxcPend := true } }) ∧
      ∀ who, halWriteTdr c b who s = .ok { s with
        hal := s.hal.set c { s.hal.get c with tdr := some b }, trace := s.trace ++ [.tdrWrite c b who] })

/-- Log entry 7, the model's own choice: a choice whose agent has no enabled transition passes, and nothing happens. A
hold whose condition is false is one (R58), and so are a vector whose handler is not enabled (R234) and a device step
that is not enabled (R251, R252, R259). -/
def Obligations.ChoicesThatAreNotEnabledPass : Prop :=
  ∀ (s : State) (x : Choice) (rest : List Choice), MachineInv s → s.faults = none → s.sched = x :: rest →
    enabled x s = false → step s = .next { s with sched := rest }

/-! ### The ring buffer -/

/-- R104, R105: a push succeeds exactly on a ring that is not full, and then joins the back of the queue; on a full
ring it changes nothing. A pop takes the oldest byte off the front of the queue, whatever an unspecified cell would
hold. Both keep the ring's form (R30). -/
def Obligations.PushAndPopWorkTheQueue : Prop :=
  ∀ r : Ring, r.wf →
    (∀ b : Byte, r.len < r.cap →
      (r.pushBack b).1 = true ∧ (r.pushBack b).2.queue = r.queue ++ [some b] ∧ (r.pushBack b).2.wf) ∧
    (∀ b : Byte, r.len = r.cap → r.pushBack b = (false, r)) ∧
    (∀ free : Byte, r.len ≠ 0 →
      ∃ (b : Byte) (r' : Ring), r.popFront free = some (b, r') ∧ r.queue = some b :: r'.queue ∧ r'.wf)

/-- R108, R109: over any sequence of pushes and pops in which no pop meets an empty ring, the bytes popped are the
bytes accepted in the order accepted, and occupancy is what was there, plus the pushes accepted, less the pops. -/
def Obligations.RingIsFirstInFirstOut : Prop :=
  ∀ (free : Byte) (ops : List RingOp) (r : Ring) (x : RingRun), r.wf → ringRun free ops r = some x →
    r.queue ++ x.accepted.map some = x.popped.map some ++ x.ring.queue ∧
    x.ring.len + x.popped.length = r.len + x.accepted.length ∧ x.ring.len ≤ x.ring.cap ∧ x.ring.cap = r.cap

/-! ### Rules of the whole machine -/

/-- R30, R21, R22, R25, R232, R257: the invariant is kept by every step. -/
def Obligations.EveryStepKeepsTheInvariant : Prop :=
  ∀ s t : State, MachineInv s → step s = .next t → MachineInv t

/-- The three invariants hold at reset, under every configuration R9 admits and whatever the rates. -/
def Obligations.TheInvariantsHoldAtReset : Prop :=
  MachineInv State.reset ∧
  ∀ (cfg : Config) (baud : PerChan Nat), cfg.wf →
    MachineInv (State.resetIn cfg baud) ∧ ArmedInv (State.resetIn cfg baud) ∧ EagerInv (State.resetIn cfg baud)

/-- R177: a channel is ARMED only inside a STARTBUF or SENDBLK of that channel; so at every command boundary `ready`
implies not `active`. -/
def Obligations.NeverArmedAtACommandBoundary : Prop :=
  (∀ s t : State, ArmedInv s → step s = .next t → ArmedInv t) ∧
  (∀ (s : State) (c : Chan), ArmedInv s → s.cc = .idle → (s.ch.get c).ready = true → (s.ch.get c).active = false)

/-- R281: in the reference device model, a step that takes no call-context transition while a handler is enabled keeps
it true that `ready` means a quiet transmitter. -/
def Obligations.EagerStepsKeepReadyMeaningQuiet : Prop :=
  ∀ s t : State, s.cfg.envModel = .reference → EagerInv s →
    (∀ x rest, s.sched = x :: rest → eagerChoice x s = true) → step s = .next t → EagerInv t

/-- R176: the handshake state of an initialised channel changes only along the rows of the table, each with its
trigger: a facade write, `active <- true` of STARTBUF or SENDBLK, or the transmit engine. -/
def Obligations.HandshakeMovesOnlyAlongItsTable : Prop :=
  ∀ (s t : State) (c : Chan) (x : Choice) (rest : List Choice), MachineInv s → (s.ch.get c).init = true →
    s.sched = x :: rest → x ≠ .reset → step s = .next t →
    let before := handshake (s.ch.get c)
    let after := handshake (t.ch.get c)
    after = before ∨
    (x = .call ∧ t.cc = .idle ∧ (∃ b, t.trace = s.trace ++ [.tdrWrite c b .facade, .resp .ok 0]) ∧
      ((before = .idle ∧ after = .single) ∨ (before = .armed ∧ after = .buffered))) ∨
    (x = .call ∧ (∃ i k L, t.cc = .busy i k L ∧ commandChan i = some c ∧
        ((∃ ch, i = .startbuf ch) ∨ ∃ ch p, i = .sendblk ch p)) ∧
      ((before = .idle ∧ after = .armed) ∨ (before = .single ∧ after = .buffered))) ∨
    (x = .event (txcVector c) ∧ (s.hal.get c).txcPend = true ∧ after = .idle ∧
      (before = .single ∨ ((before = .buffered ∨ before = .armed) ∧ (s.tx.get c).len = 0)))

/-- R241: a step that records a fault does so for its cause in the table, at the place that raises it. POP_EMPTY: the pop
of STARTBUF or SENDBLK on a channel with an empty ring. UNINIT, REINIT, BAUD_IN_FLIGHT: the issue of a command on a
channel it finds so. TDR_OVERRUN: in the reference model, a write of a full TDR by the facade (SENDB k1, STARTBUF k3,
SENDBLK k(n+4)) or by the engine's pop branch (R256). RDR_EMPTY is recorded by none. -/
def Obligations.FaultsAreRecordedOnlyForTheirCause : Prop :=
  ∀ (s t : State) (f : Fault), MachineInv s → s.faults = none → step s = .next t → t.faults = some f →
    match f with
    | .popEmpty     => ∃ rest i k L c, s.sched = .call :: rest ∧ s.cc = .busy i k L ∧ commandChan i = some c ∧
        (s.tx.get c).len = 0 ∧
        ((∃ ch, i = .startbuf ch ∧ k = 1) ∨ ∃ ch p, i = .sendblk ch p ∧ k = p.length + 2)
    | .uninit       => ∃ rest d ds i c, s.sched = .call :: rest ∧ s.cc = .idle ∧ s.cmds = d :: ds ∧
        decode (.command d) = .ok i ∧ commandChan i = some c ∧ (s.ch.get c).init = false ∧ ∀ ch, i ≠ .init ch
    | .reinit       => ∃ rest d ds ch c, s.sched = .call :: rest ∧ s.cc = .idle ∧ s.cmds = d :: ds ∧
        decode (.command d) = .ok (.init ch) ∧ selChan ch = some c ∧ (s.ch.get c).init = true
    | .baudInFlight => ∃ rest d ds ch rate c, s.sched = .call :: rest ∧ s.cc = .idle ∧ s.cmds = d :: ds ∧
        decode (.command d) = .ok (.setbaud ch rate) ∧ selChan ch = some c ∧
        ((s.ch.get c).ready = false ∨ (s.ch.get c).active = true)
    | .tdrOverrun   => s.cfg.envModel = .reference ∧ ∃ c, (s.hal.get c).tdr ≠ none ∧
        ((∃ rest i k L, s.sched = .call :: rest ∧ s.cc = .busy i k L ∧ commandChan i = some c ∧
            ((∃ ch b, i = .sendb ch b ∧ k = 1) ∨ (∃ ch, i = .startbuf ch ∧ k = 3) ∨
              ∃ ch p, i = .sendblk ch p ∧ k = p.length + 4)) ∨
         (∃ rest, s.sched = .event (txcVector c) :: rest ∧ handlerEnabled s c .txc = true ∧
            (s.ch.get c).active = true ∧ (s.tx.get c).len ≠ 0))
    | .rdrEmpty     => False

/-- R22, R240: from a state of the invariant a step answers a next state, unless a fault is recorded and the next choice
is no hardware reset. It rests on two choices of the model: a choice with no enabled transition, a hold on a full TDR
(R58) among them, passes as a next state (log entry 7), and the refusals stand where the spec has no transition (log
entry 12). -/
def Obligations.TheMachineStopsOnlyOnARecordedFault : Prop :=
  ∀ s : State, MachineInv s →
    (∀ r, step s ≠ .refused r) ∧
    (∀ f, step s = .fault f ↔ s.faults = some f ∧ ∀ rest, s.sched ≠ .reset :: rest)

/-- R9, R27, R270: no step changes a parameter, and no step takes an event back. -/
def Obligations.ParametersStayAndTheTraceGrows : Prop :=
  ∀ s t : State, step s = .next t → t.cfg = s.cfg ∧ s.trace <+: t.trace

/-- R62: an instruction of a channel, and a device step of a channel, neither reads nor writes anything of the other
channel: whatever the other channel holds, the outcome is the same and what it holds stays. -/
def Obligations.ChannelsDoNotInterfere : Prop :=
  (∀ (i : Instr) (c : Chan) (s x : State), instrChan i = some c →
    exec i (withOther c x s) = mapNext (withOther c x) (exec i s)) ∧
  (∀ (y : Choice) (c : Chan) (s x : State), deviceChan y = some c →
    environmentStep (withOther c x s) y = (environmentStep s y).map (withOther c x))

/-- R175: in the free device model, from BUFFERED with `m` bytes queued, transmit-complete events 1 to `m` each write
one byte, oldest first, and leave `ready` false; event `m + 1` sets `active` false and `ready` true, and the events
after it leave the flags, the ring and the trace as they are. -/
def Obligations.TransmitEventsDrainTheRingInOrder : Prop :=
  ∀ (c : Chan) (s : State) (bytes : List Byte), s.cfg.envModel = .free → s.faults = none → s.refused = false →
    (s.ch.get c).init = true → (s.hal.get c).txie = true → (s.tx.get c).wf →
    handshake (s.ch.get c) = .buffered → (s.tx.get c).queue = bytes.map some →
    (∀ n, n ≤ bytes.length → ∃ t,
      Host.Core.run Sys2Proof.core (2 * n) { s with sched := injectedEvents c n } = .next t ∧
      t.trace = s.trace ++ (bytes.take n).map (fun b => .tdrWrite c b .engine) ∧
      (t.tx.get c).queue = (bytes.drop n).map some ∧ handshake (t.ch.get c) = .buffered) ∧
    (∀ n, bytes.length < n → ∃ t,
      Host.Core.run Sys2Proof.core (2 * n) { s with sched := injectedEvents c n } = .next t ∧
      t.trace = s.trace ++ bytes.map (fun b => .tdrWrite c b .engine) ∧
      (t.tx.get c).len = 0 ∧ handshake (t.ch.get c) = .idle)

/-- R178: a buffered transfer whose first byte is in the TDR puts that byte and then the queued bytes on the line in
order, one MOVE, SHIFT and transmit-complete event for each, in either device model, and ends quiet in IDLE. -/
def Obligations.BufferedTransferReachesTheLineInOrder : Prop :=
  ∀ (c : Chan) (s : State) (first : Byte) (bytes : List Byte), s.faults = none → s.refused = false →
    (s.ch.get c).init = true → (s.hal.get c).txie = true → (s.tx.get c).wf →
    handshake (s.ch.get c) = .buffered → (s.tx.get c).queue = bytes.map some →
    (s.hal.get c).tdr = some first → (s.hal.get c).tsr = none →
    ∃ t, Host.Core.run Sys2Proof.core (3 * (bytes.length + 1)) { s with sched := byteTimes c (bytes.length + 1) } =
        .next t ∧
      lineBytes c t.trace = lineBytes c s.trace ++ first :: bytes ∧
      (t.tx.get c).len = 0 ∧ handshake (t.ch.get c) = .idle ∧ quiet t c = true

/-- R195, R196, R198, in either device model: with no callback, bytes that arrive one by one, each serviced, join the
receive ring in arrival order while there is room; every later one leaves the ring as it is and applies `ovf_inc` once.
None is lost by the device. -/
def Obligations.ArrivalsAreBufferedInOrderThenCounted : Prop :=
  ∀ (c : Chan) (s : State) (bytes : List Byte), s.faults = none → s.refused = false →
    (s.ch.get c).init = true → (s.hal.get c).rxie = true → (s.rx.get c).wf → (s.ch.get c).cb = none →
    (s.hal.get c).rdr = none →
    ∃ t, Host.Core.run Sys2Proof.core (2 * bytes.length) { s with sched := servicedArrivals c bytes } = .next t ∧
      (t.rx.get c).queue = (s.rx.get c).queue ++ (bytes.take ((s.rx.get c).cap - (s.rx.get c).len)).map some ∧
      (t.ch.get c).ovf = (ovfInc s.cfg)^[bytes.length - ((s.rx.get c).cap - (s.rx.get c).len)] (s.ch.get c).ovf ∧
      (t.hal.get c).rdr = none ∧ (t.hal.get c).lost = (s.hal.get c).lost ∧ t.trace = s.trace

/-- R244 (c), R211, U19: with no fault recorded and nothing refused, a machine with no MOVE, SHIFT, handler or micro-step
enabled, and whose host has no command to issue while the call context is idle, is at a good end: a hold never waits on
a TDR that no device step will empty. -/
def Obligations.TheMachineIsNeverStuck : Prop :=
  ∀ s : State, s.faults = none → s.refused = false → stuckEnd s = false

/-- R260, U19: on a weakly fair run without a fault, whatever the host does, a full TDR is eventually empty, so the
condition of a hold always comes true again. -/
def Obligations.AFairRunEmptiesTheTdr : Prop :=
  ∀ (at_ : Nat → State) (pick : Nat → Choice), Run at_ pick → WeaklyFair at_ pick →
    (∀ n, (at_ n).faults = none) → ∀ (c : Chan) (n : Nat), ∃ m, n ≤ m ∧ ((at_ m).hal.get c).tdr = none
end

