-- ==== Sys2Proof/Laws/Decode.lean ====
section
/-! SUPPORT. Laws of the command word: each field of a word put together from its parts, and the byte form. -/

namespace Sys2Proof

section Fields
variable (op : BitVec 4) (ch : Sel) (arg : BitVec 24)

@[simp] theorem opField_commandWord : opField (commandWord op ch arg) = op := by
  apply BitVec.eq_of_getElem_eq
  intro i hi
  interval_cases i <;> simp [opField, commandWord]

@[simp] theorem rsvField_commandWord : rsvField (commandWord op ch arg) = 0 := by
  apply BitVec.eq_of_getElem_eq
  intro i hi
  interval_cases i <;> simp [rsvField, commandWord]

@[simp] theorem chField_commandWord : chField (commandWord op ch arg) = ch := by
  apply BitVec.eq_of_getElem_eq
  intro i hi
  interval_cases i <;> simp [chField, commandWord]

/-- Any run of bits inside `ARG` is that run of the operand field. -/
theorem argBits_commandWord (a n : Nat) (h : a + n ≤ 24) :
    (commandWord op ch arg).extractLsb' a n = arg.extractLsb' a n := by
  apply BitVec.eq_of_getElem_eq
  intro i hi
  have h1 : a + i < 24 := by omega
  have h2 : a + i < 28 := by omega
  have h3 : a + i < 32 := by omega
  simp [commandWord, h1, h2, h3]

@[simp] theorem argField_commandWord : argField (commandWord op ch arg) = arg := by
  rw [argField, argBits_commandWord _ _ _ _ _ (by omega)]
  simp

@[simp] theorem insField_commandWord : insField (commandWord op ch arg) = arg.getLsbD 8 := by
  simp [insField, commandWord]

end Fields

/-- The four bytes of a word put together again (R54). -/
@[simp] theorem bytesOfWord_wordOfBytes (b0 b1 b2 b3 : Byte) :
    bytesOfWord (wordOfBytes b0 b1 b2 b3) = [b0, b1, b2, b3] := by
  simp only [bytesOfWord, wordOfBytes, List.cons.injEq, and_true]
  refine ⟨?_, ?_, ?_, ?_⟩ <;>
    (apply BitVec.eq_of_getElem_eq; intro i hi; interval_cases i <;> simp)

@[simp] theorem wordOfBytes_bytesOfWord (w : Word) :
    wordOfBytes (w.extractLsb' 0 8) (w.extractLsb' 8 8) (w.extractLsb' 16 8) (w.extractLsb' 24 8) = w := by
  unfold wordOfBytes
  apply BitVec.eq_of_getElem_eq
  intro i hi
  interval_cases i <;> simp

end Sys2Proof
end

