-- ==== Sys2Proof/Laws/Ring.lean ====
section
/-! SUPPORT. Laws of ring storage and of the ring primitives: read after write, the canonical form is kept, and what
each primitive answers. -/

namespace Sys2Proof.Machine

/-! ### Storage -/

theorem Memory.read_write_same (m : List Host.Cell) (i : Nat) (b : Byte) : Memory.read (Memory.write m i b) i = some b := by
  induction m with
  | nil => simp [Memory.write, Memory.read]
  | cons x m ih =>
    simp only [Memory.write]
    split
    · simp [Memory.read]
    · split
      · simp [Memory.read]
      · simp [Memory.read, *]

theorem Memory.read_write_other (m : List Host.Cell) {i j : Nat} (b : Byte) (h : j ≠ i) :
    Memory.read (Memory.write m i b) j = Memory.read m j := by
  induction m with
  | nil => simp [Memory.write, Memory.read, h]
  | cons x m ih =>
    simp only [Memory.write]
    split
    · simp [Memory.read, h]
    · split
      · rename_i h1 h2
        subst h2
        simp [Memory.read, h]
      · simp [Memory.read, ih]

theorem Memory.read_write (m : List Host.Cell) (i j : Nat) (b : Byte) :
    Memory.read (Memory.write m i b) j = if j = i then some b else Memory.read m j := by
  by_cases h : j = i
  · simp [h, Memory.read_write_same]
  · simp [h, Memory.read_write_other]

/-- The canonical form as `List.Pairwise`: the indices rise strictly. -/
theorem Memory.wf_iff (m : List Host.Cell) : Memory.wf m = true ↔ m.Pairwise fun x y => x.1 < y.1 := by
  induction m with
  | nil => simp [Memory.wf]
  | cons x m ih =>
    cases m with
    | nil => simp [Memory.wf]
    | cons y m =>
      simp only [Memory.wf, Bool.and_eq_true, decide_eq_true_eq, ih, List.pairwise_cons, List.mem_cons]
      constructor
      · rintro ⟨h, h1, h2⟩
        refine ⟨?_, h1, h2⟩
        rintro z (rfl | hz)
        · exact h
        · exact h.trans (h1 z hz)
      · rintro ⟨h, h1, h2⟩
        exact ⟨h y (Or.inl rfl), h1, h2⟩

theorem Memory.mem_write (m : List Host.Cell) (i : Nat) (b : Byte) (x : Host.Cell) (h : x ∈ Memory.write m i b) :
    x = (i, b) ∨ x ∈ m := by
  induction m with
  | nil => simpa [Memory.write] using h
  | cons y m ih =>
    simp only [Memory.write] at h
    split at h
    · simpa using h
    · split at h
      · rcases List.mem_cons.1 h with h | h
        · exact .inl h
        · exact .inr (List.mem_cons_of_mem _ h)
      · rcases List.mem_cons.1 h with h | h
        · exact .inr (h ▸ List.mem_cons_self)
        · exact (ih h).imp id (List.mem_cons_of_mem _)

/-- A write keeps the canonical form. -/
theorem Memory.wf_write (m : List Host.Cell) (i : Nat) (b : Byte) (h : Memory.wf m = true) :
    Memory.wf (Memory.write m i b) = true := by
  rw [Memory.wf_iff] at *
  induction m with
  | nil => simp [Memory.write]
  | cons y m ih =>
    obtain ⟨h1, h2⟩ := List.pairwise_cons.1 h
    simp only [Memory.write]
    split
    · rename_i hlt
      refine List.pairwise_cons.2 ⟨?_, h⟩
      intro z hz
      rcases List.mem_cons.1 hz with rfl | hz
      · exact hlt
      · exact Nat.lt_trans hlt (h1 z hz)
    · split
      · rename_i heq
        subst heq
        exact List.pairwise_cons.2 ⟨h1, h2⟩
      · rename_i hge hne
        refine List.pairwise_cons.2 ⟨?_, ih h2⟩
        intro z hz
        rcases Memory.mem_write m i b z hz with rfl | hz
        · show y.1 < i
          omega
        · exact h1 z hz

/-- A write keeps every index below a bound that its own index meets. -/
theorem Memory.bounded_write (m : List Host.Cell) (i n : Nat) (b : Byte) (hi : i < n)
    (h : (m.all fun x => decide (x.1 < n)) = true) : ((Memory.write m i b).all fun x => decide (x.1 < n)) = true := by
  rw [List.all_eq_true] at *
  intro x hx
  rcases Memory.mem_write m i b x hx with rfl | hx
  · simpa using hi
  · exact h x hx

@[simp] theorem Memory.wf_unspecified : Memory.wf Memory.unspecified = true := rfl
@[simp] theorem Memory.read_unspecified (i : Nat) : Memory.read Memory.unspecified i = none := rfl

/-! ### The primitives -/

theorem Ring.pushBack_room (r : Ring) (b : Byte) (h : r.len < r.cap) :
    r.pushBack b = (true, { r with
      store := Memory.write r.store r.tail b, tail := (r.tail + 1) % r.cap, len := r.len + 1 }) := by
  simp [Ring.pushBack, h]

theorem Ring.pushBack_full (r : Ring) (b : Byte) (h : r.cap ≤ r.len) : r.pushBack b = (false, r) := by
  simp [Ring.pushBack, Nat.not_lt.2 h]

@[simp] theorem Ring.pushBack_cap (r : Ring) (b : Byte) : (r.pushBack b).2.cap = r.cap := by
  unfold Ring.pushBack; split <;> rfl

theorem Ring.popFront_empty (r : Ring) (free : Byte) (h : r.len = 0) : r.popFront free = none := by
  simp [Ring.popFront, h]

theorem Ring.popFront_some (r : Ring) (free : Byte) (h : r.len ≠ 0) :
    r.popFront free = some (r.front free, { r with head := (r.head + 1) % r.cap, len := r.len - 1 }) := by
  simp [Ring.popFront, h]

/-- Everything a pop can do. -/
theorem Ring.popFront_cases {r r' : Ring} {free b : Byte} (h : r.popFront free = some (b, r')) :
    r.len ≠ 0 ∧ b = r.front free ∧ r' = { r with head := (r.head + 1) % r.cap, len := r.len - 1 } := by
  unfold Ring.popFront at h
  split at h
  · cases h
  · cases h; exact ⟨‹_›, rfl, rfl⟩

@[simp] theorem Ring.create_wf (cap : Nat) : (Ring.create cap).wf := by
  refine ⟨Nat.zero_le _, fun h => ⟨h, h, ?_⟩, fun _ => ⟨rfl, rfl, rfl⟩, rfl, rfl, rfl⟩
  simp [Ring.create]

@[simp] theorem Ring.blank_wf : Ring.blank.wf := by decide

end Sys2Proof.Machine
end

