-- ==== Sys2Proof/Laws/State.lean ====
section
/-! SUPPORT. The small lemmas of the state: what each update leaves in each field, and reading a channel's record
after writing one. -/

namespace Sys2Proof

section PerChan
variable {α : Type} (x : PerChan α) (v : α)

@[simp] theorem PerChan.get_set_same (c : Chan) : (x.set c v).get c = v := by cases c <;> rfl
theorem PerChan.get_set_other {c d : Chan} (h : d ≠ c) : (x.set c v).get d = x.get d := by
  cases c <;> cases d <;> first | rfl | exact absurd rfl h
@[simp] theorem PerChan.get_set_c0_c1 : (x.set .c0 v).get .c1 = x.get .c1 := rfl
@[simp] theorem PerChan.get_set_c1_c0 : (x.set .c1 v).get .c0 = x.get .c0 := rfl
@[simp] theorem PerChan.get_set_other_channel (c : Chan) : (x.set c v).get c.other = x.get c.other := by
  cases c <;> rfl
theorem PerChan.get_set (c d : Chan) : (x.set c v).get d = if d = c then v else x.get d := by
  cases c <;> cases d <;> rfl
@[simp] theorem PerChan.set_set (c : Chan) (u : α) : (x.set c u).set c v = x.set c v := by cases c <;> rfl
@[simp] theorem PerChan.set_get (c : Chan) : x.set c (x.get c) = x := by cases c <;> rfl
@[simp] theorem PerChan.get_mk_same (a : α) (c : Chan) : (PerChan.mk a a).get c = a := by cases c <;> rfl

end PerChan

@[simp] theorem Chan.other_ne (c : Chan) : c.other ≠ c := by cases c <;> decide
@[simp] theorem Chan.ne_other (c : Chan) : c ≠ c.other := by cases c <;> decide
@[simp] theorem Chan.other_other (c : Chan) : c.other.other = c := by cases c <;> rfl
theorem Chan.eq_or_other (c d : Chan) : d = c ∨ d = c.other := by cases c <;> cases d <;> decide

namespace Machine
variable (s : State)

/-! ### `setCh` -/

@[simp] theorem State.setCh_cfg (c : Chan) (x : ChanState) : (s.setCh c x).cfg = s.cfg := rfl
@[simp] theorem State.setCh_ch (c : Chan) (x : ChanState) : (s.setCh c x).ch = s.ch.set c x := rfl
@[simp] theorem State.setCh_tx (c : Chan) (x : ChanState) : (s.setCh c x).tx = s.tx := rfl
@[simp] theorem State.setCh_rx (c : Chan) (x : ChanState) : (s.setCh c x).rx = s.rx := rfl
@[simp] theorem State.setCh_hal (c : Chan) (x : ChanState) : (s.setCh c x).hal = s.hal := rfl
@[simp] theorem State.setCh_cc (c : Chan) (x : ChanState) : (s.setCh c x).cc = s.cc := rfl
@[simp] theorem State.setCh_faults (c : Chan) (x : ChanState) : (s.setCh c x).faults = s.faults := rfl
@[simp] theorem State.setCh_refused (c : Chan) (x : ChanState) : (s.setCh c x).refused = s.refused := rfl
@[simp] theorem State.setCh_trace (c : Chan) (x : ChanState) : (s.setCh c x).trace = s.trace := rfl
@[simp] theorem State.setCh_cmds (c : Chan) (x : ChanState) : (s.setCh c x).cmds = s.cmds := rfl
@[simp] theorem State.setCh_sched (c : Chan) (x : ChanState) : (s.setCh c x).sched = s.sched := rfl
@[simp] theorem State.setCh_draws (c : Chan) (x : ChanState) : (s.setCh c x).draws = s.draws := rfl

/-! ### `setTx` -/

@[simp] theorem State.setTx_cfg (c : Chan) (r : Ring) : (s.setTx c r).cfg = s.cfg := rfl
@[simp] theorem State.setTx_ch (c : Chan) (r : Ring) : (s.setTx c r).ch = s.ch := rfl
@[simp] theorem State.setTx_tx (c : Chan) (r : Ring) : (s.setTx c r).tx = s.tx.set c r := rfl
@[simp] theorem State.setTx_rx (c : Chan) (r : Ring) : (s.setTx c r).rx = s.rx := rfl
@[simp] theorem State.setTx_hal (c : Chan) (r : Ring) : (s.setTx c r).hal = s.hal := rfl
@[simp] theorem State.setTx_cc (c : Chan) (r : Ring) : (s.setTx c r).cc = s.cc := rfl
@[simp] theorem State.setTx_faults (c : Chan) (r : Ring) : (s.setTx c r).faults = s.faults := rfl
@[simp] theorem State.setTx_refused (c : Chan) (r : Ring) : (s.setTx c r).refused = s.refused := rfl
@[simp] theorem State.setTx_trace (c : Chan) (r : Ring) : (s.setTx c r).trace = s.trace := rfl
@[simp] theorem State.setTx_cmds (c : Chan) (r : Ring) : (s.setTx c r).cmds = s.cmds := rfl
@[simp] theorem State.setTx_sched (c : Chan) (r : Ring) : (s.setTx c r).sched = s.sched := rfl
@[simp] theorem State.setTx_draws (c : Chan) (r : Ring) : (s.setTx c r).draws = s.draws := rfl

/-! ### `setRx` -/

@[simp] theorem State.setRx_cfg (c : Chan) (r : Ring) : (s.setRx c r).cfg = s.cfg := rfl
@[simp] theorem State.setRx_ch (c : Chan) (r : Ring) : (s.setRx c r).ch = s.ch := rfl
@[simp] theorem State.setRx_tx (c : Chan) (r : Ring) : (s.setRx c r).tx = s.tx := rfl
@[simp] theorem State.setRx_rx (c : Chan) (r : Ring) : (s.setRx c r).rx = s.rx.set c r := rfl
@[simp] theorem State.setRx_hal (c : Chan) (r : Ring) : (s.setRx c r).hal = s.hal := rfl
@[simp] theorem State.setRx_cc (c : Chan) (r : Ring) : (s.setRx c r).cc = s.cc := rfl
@[simp] theorem State.setRx_faults (c : Chan) (r : Ring) : (s.setRx c r).faults = s.faults := rfl
@[simp] theorem State.setRx_refused (c : Chan) (r : Ring) : (s.setRx c r).refused = s.refused := rfl
@[simp] theorem State.setRx_trace (c : Chan) (r : Ring) : (s.setRx c r).trace = s.trace := rfl
@[simp] theorem State.setRx_cmds (c : Chan) (r : Ring) : (s.setRx c r).cmds = s.cmds := rfl
@[simp] theorem State.setRx_sched (c : Chan) (r : Ring) : (s.setRx c r).sched = s.sched := rfl
@[simp] theorem State.setRx_draws (c : Chan) (r : Ring) : (s.setRx c r).draws = s.draws := rfl

/-! ### `setHal` -/

@[simp] theorem State.setHal_cfg (c : Chan) (d : Device) : (s.setHal c d).cfg = s.cfg := rfl
@[simp] theorem State.setHal_ch (c : Chan) (d : Device) : (s.setHal c d).ch = s.ch := rfl
@[simp] theorem State.setHal_tx (c : Chan) (d : Device) : (s.setHal c d).tx = s.tx := rfl
@[simp] theorem State.setHal_rx (c : Chan) (d : Device) : (s.setHal c d).rx = s.rx := rfl
@[simp] theorem State.setHal_hal (c : Chan) (d : Device) : (s.setHal c d).hal = s.hal.set c d := rfl
@[simp] theorem State.setHal_cc (c : Chan) (d : Device) : (s.setHal c d).cc = s.cc := rfl
@[simp] theorem State.setHal_faults (c : Chan) (d : Device) : (s.setHal c d).faults = s.faults := rfl
@[simp] theorem State.setHal_refused (c : Chan) (d : Device) : (s.setHal c d).refused = s.refused := rfl
@[simp] theorem State.setHal_trace (c : Chan) (d : Device) : (s.setHal c d).trace = s.trace := rfl
@[simp] theorem State.setHal_cmds (c : Chan) (d : Device) : (s.setHal c d).cmds = s.cmds := rfl
@[simp] theorem State.setHal_sched (c : Chan) (d : Device) : (s.setHal c d).sched = s.sched := rfl
@[simp] theorem State.setHal_draws (c : Chan) (d : Device) : (s.setHal c d).draws = s.draws := rfl

/-! ### `setCc` -/

@[simp] theorem State.setCc_cfg (p : Progress) : (s.setCc p).cfg = s.cfg := rfl
@[simp] theorem State.setCc_ch (p : Progress) : (s.setCc p).ch = s.ch := rfl
@[simp] theorem State.setCc_tx (p : Progress) : (s.setCc p).tx = s.tx := rfl
@[simp] theorem State.setCc_rx (p : Progress) : (s.setCc p).rx = s.rx := rfl
@[simp] theorem State.setCc_hal (p : Progress) : (s.setCc p).hal = s.hal := rfl
@[simp] theorem State.setCc_cc (p : Progress) : (s.setCc p).cc = p := rfl
@[simp] theorem State.setCc_faults (p : Progress) : (s.setCc p).faults = s.faults := rfl
@[simp] theorem State.setCc_refused (p : Progress) : (s.setCc p).refused = s.refused := rfl
@[simp] theorem State.setCc_trace (p : Progress) : (s.setCc p).trace = s.trace := rfl
@[simp] theorem State.setCc_cmds (p : Progress) : (s.setCc p).cmds = s.cmds := rfl
@[simp] theorem State.setCc_sched (p : Progress) : (s.setCc p).sched = s.sched := rfl
@[simp] theorem State.setCc_draws (p : Progress) : (s.setCc p).draws = s.draws := rfl

/-! ### `drawn` -/

@[simp] theorem State.drawn_cfg (n : Nat) : (s.drawn n).cfg = s.cfg := rfl
@[simp] theorem State.drawn_ch (n : Nat) : (s.drawn n).ch = s.ch := rfl
@[simp] theorem State.drawn_tx (n : Nat) : (s.drawn n).tx = s.tx := rfl
@[simp] theorem State.drawn_rx (n : Nat) : (s.drawn n).rx = s.rx := rfl
@[simp] theorem State.drawn_hal (n : Nat) : (s.drawn n).hal = s.hal := rfl
@[simp] theorem State.drawn_cc (n : Nat) : (s.drawn n).cc = s.cc := rfl
@[simp] theorem State.drawn_faults (n : Nat) : (s.drawn n).faults = s.faults := rfl
@[simp] theorem State.drawn_refused (n : Nat) : (s.drawn n).refused = s.refused := rfl
@[simp] theorem State.drawn_trace (n : Nat) : (s.drawn n).trace = s.trace := rfl
@[simp] theorem State.drawn_cmds (n : Nat) : (s.drawn n).cmds = s.cmds := rfl
@[simp] theorem State.drawn_sched (n : Nat) : (s.drawn n).sched = s.sched := rfl
@[simp] theorem State.drawn_draws (n : Nat) : (s.drawn n).draws = s.draws + n := rfl

/-! ### `emit` -/

@[simp] theorem State.emit_cfg (e : Event) : (s.emit e).cfg = s.cfg := rfl
@[simp] theorem State.emit_ch (e : Event) : (s.emit e).ch = s.ch := rfl
@[simp] theorem State.emit_tx (e : Event) : (s.emit e).tx = s.tx := rfl
@[simp] theorem State.emit_rx (e : Event) : (s.emit e).rx = s.rx := rfl
@[simp] theorem State.emit_hal (e : Event) : (s.emit e).hal = s.hal := rfl
@[simp] theorem State.emit_cc (e : Event) : (s.emit e).cc = s.cc := rfl
@[simp] theorem State.emit_faults (e : Event) : (s.emit e).faults = s.faults := rfl
@[simp] theorem State.emit_refused (e : Event) : (s.emit e).refused = s.refused := rfl
@[simp] theorem State.emit_trace (e : Event) : (s.emit e).trace = s.trace ++ [e] := rfl
@[simp] theorem State.emit_cmds (e : Event) : (s.emit e).cmds = s.cmds := rfl
@[simp] theorem State.emit_sched (e : Event) : (s.emit e).sched = s.sched := rfl
@[simp] theorem State.emit_draws (e : Event) : (s.emit e).draws = s.draws := rfl

/-! ### `refuse` -/

@[simp] theorem State.refuse_cfg : (s.refuse).cfg = s.cfg := rfl
@[simp] theorem State.refuse_ch : (s.refuse).ch = s.ch := rfl
@[simp] theorem State.refuse_tx : (s.refuse).tx = s.tx := rfl
@[simp] theorem State.refuse_rx : (s.refuse).rx = s.rx := rfl
@[simp] theorem State.refuse_hal : (s.refuse).hal = s.hal := rfl
@[simp] theorem State.refuse_cc : (s.refuse).cc = s.cc := rfl
@[simp] theorem State.refuse_faults : (s.refuse).faults = s.faults := rfl
@[simp] theorem State.refuse_refused : (s.refuse).refused = true := rfl
@[simp] theorem State.refuse_trace : (s.refuse).trace = s.trace := rfl
@[simp] theorem State.refuse_cmds : (s.refuse).cmds = s.cmds := rfl
@[simp] theorem State.refuse_sched : (s.refuse).sched = s.sched := rfl
@[simp] theorem State.refuse_draws : (s.refuse).draws = s.draws := rfl

/-! ### `takeFault` -/

@[simp] theorem State.takeFault_cfg (f : Fault) (tr : List Event) : (s.takeFault f tr).cfg = s.cfg := rfl
@[simp] theorem State.takeFault_ch (f : Fault) (tr : List Event) : (s.takeFault f tr).ch = s.ch := rfl
@[simp] theorem State.takeFault_tx (f : Fault) (tr : List Event) : (s.takeFault f tr).tx = s.tx := rfl
@[simp] theorem State.takeFault_rx (f : Fault) (tr : List Event) : (s.takeFault f tr).rx = s.rx := rfl
@[simp] theorem State.takeFault_hal (f : Fault) (tr : List Event) : (s.takeFault f tr).hal = s.hal := rfl
@[simp] theorem State.takeFault_cc (f : Fault) (tr : List Event) : (s.takeFault f tr).cc = s.cc := rfl
@[simp] theorem State.takeFault_faults (f : Fault) (tr : List Event) : (s.takeFault f tr).faults = some f := rfl
@[simp] theorem State.takeFault_refused (f : Fault) (tr : List Event) : (s.takeFault f tr).refused = s.refused := rfl
@[simp] theorem State.takeFault_trace (f : Fault) (tr : List Event) : (s.takeFault f tr).trace = tr := rfl
@[simp] theorem State.takeFault_cmds (f : Fault) (tr : List Event) : (s.takeFault f tr).cmds = s.cmds := rfl
@[simp] theorem State.takeFault_sched (f : Fault) (tr : List Event) : (s.takeFault f tr).sched = s.sched := rfl
@[simp] theorem State.takeFault_draws (f : Fault) (tr : List Event) : (s.takeFault f tr).draws = s.draws := rfl

/-! ### `setReady` -/

@[simp] theorem State.setReady_cfg (c : Chan) (v : Bool) : (s.setReady c v).cfg = s.cfg := rfl
@[simp] theorem State.setReady_ch (c : Chan) (v : Bool) : (s.setReady c v).ch = s.ch.set c { s.ch.get c with ready := v } := rfl
@[simp] theorem State.setReady_tx (c : Chan) (v : Bool) : (s.setReady c v).tx = s.tx := rfl
@[simp] theorem State.setReady_rx (c : Chan) (v : Bool) : (s.setReady c v).rx = s.rx := rfl
@[simp] theorem State.setReady_hal (c : Chan) (v : Bool) : (s.setReady c v).hal = s.hal := rfl
@[simp] theorem State.setReady_cc (c : Chan) (v : Bool) : (s.setReady c v).cc = s.cc := rfl
@[simp] theorem State.setReady_faults (c : Chan) (v : Bool) : (s.setReady c v).faults = s.faults := rfl
@[simp] theorem State.setReady_refused (c : Chan) (v : Bool) : (s.setReady c v).refused = s.refused := rfl
@[simp] theorem State.setReady_trace (c : Chan) (v : Bool) : (s.setReady c v).trace = s.trace := rfl
@[simp] theorem State.setReady_cmds (c : Chan) (v : Bool) : (s.setReady c v).cmds = s.cmds := rfl
@[simp] theorem State.setReady_sched (c : Chan) (v : Bool) : (s.setReady c v).sched = s.sched := rfl
@[simp] theorem State.setReady_draws (c : Chan) (v : Bool) : (s.setReady c v).draws = s.draws := rfl

/-! ### `setActive` -/

@[simp] theorem State.setActive_cfg (c : Chan) (v : Bool) : (s.setActive c v).cfg = s.cfg := rfl
@[simp] theorem State.setActive_ch (c : Chan) (v : Bool) : (s.setActive c v).ch = s.ch.set c { s.ch.get c with active := v } := rfl
@[simp] theorem State.setActive_tx (c : Chan) (v : Bool) : (s.setActive c v).tx = s.tx := rfl
@[simp] theorem State.setActive_rx (c : Chan) (v : Bool) : (s.setActive c v).rx = s.rx := rfl
@[simp] theorem State.setActive_hal (c : Chan) (v : Bool) : (s.setActive c v).hal = s.hal := rfl
@[simp] theorem State.setActive_cc (c : Chan) (v : Bool) : (s.setActive c v).cc = s.cc := rfl
@[simp] theorem State.setActive_faults (c : Chan) (v : Bool) : (s.setActive c v).faults = s.faults := rfl
@[simp] theorem State.setActive_refused (c : Chan) (v : Bool) : (s.setActive c v).refused = s.refused := rfl
@[simp] theorem State.setActive_trace (c : Chan) (v : Bool) : (s.setActive c v).trace = s.trace := rfl
@[simp] theorem State.setActive_cmds (c : Chan) (v : Bool) : (s.setActive c v).cmds = s.cmds := rfl
@[simp] theorem State.setActive_sched (c : Chan) (v : Bool) : (s.setActive c v).sched = s.sched := rfl
@[simp] theorem State.setActive_draws (c : Chan) (v : Bool) : (s.setActive c v).draws = s.draws := rfl

/-! ### `respond` -/

@[simp] theorem State.respond_cfg (st : Status) (v : BitVec 28) : (s.respond st v).cfg = s.cfg := rfl
@[simp] theorem State.respond_ch (st : Status) (v : BitVec 28) : (s.respond st v).ch = s.ch := rfl
@[simp] theorem State.respond_tx (st : Status) (v : BitVec 28) : (s.respond st v).tx = s.tx := rfl
@[simp] theorem State.respond_rx (st : Status) (v : BitVec 28) : (s.respond st v).rx = s.rx := rfl
@[simp] theorem State.respond_hal (st : Status) (v : BitVec 28) : (s.respond st v).hal = s.hal := rfl
@[simp] theorem State.respond_cc (st : Status) (v : BitVec 28) : (s.respond st v).cc = .idle := rfl
@[simp] theorem State.respond_faults (st : Status) (v : BitVec 28) : (s.respond st v).faults = s.faults := rfl
@[simp] theorem State.respond_refused (st : Status) (v : BitVec 28) : (s.respond st v).refused = s.refused := rfl
@[simp] theorem State.respond_trace (st : Status) (v : BitVec 28) : (s.respond st v).trace = s.trace ++ [.resp st v] := rfl
@[simp] theorem State.respond_cmds (st : Status) (v : BitVec 28) : (s.respond st v).cmds = s.cmds := rfl
@[simp] theorem State.respond_sched (st : Status) (v : BitVec 28) : (s.respond st v).sched = s.sched := rfl
@[simp] theorem State.respond_draws (st : Status) (v : BitVec 28) : (s.respond st v).draws = s.draws := rfl

/-! ### Updates of the same field, one after the other -/

@[simp] theorem State.setCc_setCc (p q : Progress) : (s.setCc p).setCc q = s.setCc q := rfl
@[simp] theorem State.setHal_setHal (c : Chan) (d e : Device) : (s.setHal c d).setHal c e = s.setHal c e := by
  simp [State.setHal]
@[simp] theorem State.setCh_setCh (c : Chan) (x y : ChanState) : (s.setCh c x).setCh c y = s.setCh c y := by
  simp [State.setCh]

/-! ### `advance` and `setLocals`: only `cc` moves -/

@[simp] theorem State.advance_cfg : (s.advance).cfg = s.cfg := by unfold State.advance; split <;> rfl
@[simp] theorem State.advance_ch : (s.advance).ch = s.ch := by unfold State.advance; split <;> rfl
@[simp] theorem State.advance_tx : (s.advance).tx = s.tx := by unfold State.advance; split <;> rfl
@[simp] theorem State.advance_rx : (s.advance).rx = s.rx := by unfold State.advance; split <;> rfl
@[simp] theorem State.advance_hal : (s.advance).hal = s.hal := by unfold State.advance; split <;> rfl
@[simp] theorem State.advance_faults : (s.advance).faults = s.faults := by unfold State.advance; split <;> rfl
@[simp] theorem State.advance_refused : (s.advance).refused = s.refused := by unfold State.advance; split <;> rfl
@[simp] theorem State.advance_trace : (s.advance).trace = s.trace := by unfold State.advance; split <;> rfl
@[simp] theorem State.advance_cmds : (s.advance).cmds = s.cmds := by unfold State.advance; split <;> rfl
@[simp] theorem State.advance_sched : (s.advance).sched = s.sched := by unfold State.advance; split <;> rfl
@[simp] theorem State.advance_draws : (s.advance).draws = s.draws := by unfold State.advance; split <;> rfl

@[simp] theorem State.setLocals_cfg (L : Locals) : (s.setLocals L).cfg = s.cfg := by unfold State.setLocals; split <;> rfl
@[simp] theorem State.setLocals_ch (L : Locals) : (s.setLocals L).ch = s.ch := by unfold State.setLocals; split <;> rfl
@[simp] theorem State.setLocals_tx (L : Locals) : (s.setLocals L).tx = s.tx := by unfold State.setLocals; split <;> rfl
@[simp] theorem State.setLocals_rx (L : Locals) : (s.setLocals L).rx = s.rx := by unfold State.setLocals; split <;> rfl
@[simp] theorem State.setLocals_hal (L : Locals) : (s.setLocals L).hal = s.hal := by unfold State.setLocals; split <;> rfl
@[simp] theorem State.setLocals_faults (L : Locals) : (s.setLocals L).faults = s.faults := by unfold State.setLocals; split <;> rfl
@[simp] theorem State.setLocals_refused (L : Locals) : (s.setLocals L).refused = s.refused := by unfold State.setLocals; split <;> rfl
@[simp] theorem State.setLocals_trace (L : Locals) : (s.setLocals L).trace = s.trace := by unfold State.setLocals; split <;> rfl
@[simp] theorem State.setLocals_cmds (L : Locals) : (s.setLocals L).cmds = s.cmds := by unfold State.setLocals; split <;> rfl
@[simp] theorem State.setLocals_sched (L : Locals) : (s.setLocals L).sched = s.sched := by unfold State.setLocals; split <;> rfl
@[simp] theorem State.setLocals_draws (L : Locals) : (s.setLocals L).draws = s.draws := by unfold State.setLocals; split <;> rfl

theorem State.advance_cc {i : Instr} {k : Nat} {L : Locals} (h : s.cc = .busy i k L) :
    s.advance.cc = .busy i (k + 1) L := by simp [State.advance, h]
theorem State.setLocals_cc {i : Instr} {k : Nat} {L M : Locals} (h : s.cc = .busy i k L) :
    (s.setLocals M).cc = .busy i k M := by simp [State.setLocals, h]
theorem State.advance_eq {i : Instr} {k : Nat} {L : Locals} (h : s.cc = .busy i k L) :
    s.advance = s.setCc (.busy i (k + 1) L) := by simp [State.advance, h]
theorem State.setLocals_eq {i : Instr} {k : Nat} {L M : Locals} (h : s.cc = .busy i k L) :
    s.setLocals M = s.setCc (.busy i k M) := by simp [State.setLocals, h]
@[simp] theorem State.advance_setCc_busy (i : Instr) (k : Nat) (L : Locals) :
    (s.setCc (.busy i k L)).advance = s.setCc (.busy i (k + 1) L) := rfl
@[simp] theorem State.setLocals_setCc_busy (i : Instr) (k : Nat) (L M : Locals) :
    (s.setCc (.busy i k L)).setLocals M = s.setCc (.busy i k M) := rfl

/-! ### Hardware reset -/

@[simp] theorem State.hardReset_cfg : s.hardReset.cfg = s.cfg := rfl
@[simp] theorem State.hardReset_ch (c : Chan) : s.hardReset.ch.get c = ChanState.blank := by cases c <;> rfl
@[simp] theorem State.hardReset_tx (c : Chan) : s.hardReset.tx.get c = Ring.blank := by cases c <;> rfl
@[simp] theorem State.hardReset_rx (c : Chan) : s.hardReset.rx.get c = Ring.blank := by cases c <;> rfl
theorem State.hardReset_hal (c : Chan) : ∃ b, s.hardReset.hal.get c = Device.afterReset b := by
  cases c <;> exact ⟨_, rfl⟩
@[simp] theorem State.hardReset_cc : s.hardReset.cc = .idle := rfl
@[simp] theorem State.hardReset_faults : s.hardReset.faults = none := rfl
@[simp] theorem State.hardReset_refused : s.hardReset.refused = false := rfl
@[simp] theorem State.hardReset_trace : s.hardReset.trace = s.trace := rfl
@[simp] theorem State.hardReset_cmds : s.hardReset.cmds = s.cmds := rfl
@[simp] theorem State.hardReset_sched : s.hardReset.sched = s.sched := rfl

end Machine
end Sys2Proof
end

