-- ==== Sys2Proof/Laws/Ops.lean ====
section
/-! SUPPORT. Laws of the shared operations: what a transition settles to, and everything the command frame, the
handler frame, the ring accesses and the device primitives can answer. -/

namespace Sys2Proof.Machine

/-! ### `settle` -/

@[simp] theorem settle_ok (s t : State) : settle s (.ok t) = .next t := rfl
@[simp] theorem settle_raise (s t : State) (f : Fault) : settle s (raise f t) = .next (s.takeFault f t.trace) := rfl
@[simp] theorem settle_refuse (s : State) (r : Refusal) : settle s (.error (.refuse r)) = .refused r := rfl

/-- A transition that answers a next state either completed or recorded a fault. -/
theorem settle_cases {s t : State} {e : Effect State} (h : settle s e = .next t) :
    e = .ok t ∨ ∃ f tr, e = .error (.raise f tr) ∧ t = s.takeFault f tr := by
  match e, h with
  | .ok _, h => cases h; exact .inl rfl
  | .error (.raise f tr), h => cases h; exact .inr ⟨f, tr, rfl, rfl⟩

theorem settle_ne_fault (s : State) (e : Effect State) (f : Fault) : settle s e ≠ .fault f := by
  match e with
  | .ok _ => simp
  | .error (.raise _ _) => simp [settle]
  | .error (.refuse _) => simp

/-! ### The command frame -/

@[simp] theorem progressOf_idle (i : Instr) : progressOf i .idle = some (0, Locals.start) := rfl
@[simp] theorem progressOf_busy (i : Instr) (k : Nat) (L : Locals) : progressOf i (.busy i k L) = some (k, L) := by
  simp [progressOf]

section Command
variable {i : Instr} {sel : Sel} {needsInit : Bool} {body : Chan → Nat → Locals → State → Effect State} {s t : State}

theorem runCommand_faulted {f : Fault} (h : s.faults = some f) : runCommand i sel needsInit body s = .fault f := by
  simp [runCommand, h]

/-- The issue transition on an initialised channel (R210). -/
theorem runCommand_issue {c : Chan} (h : canIssueOn s sel c) :
    runCommand i sel needsInit body s = settle s (body c 0 .start (s.setCc (.busy i 0 .start))) := by
  obtain ⟨⟨h1, h2⟩, h3, h4⟩ := h
  simp [runCommand, h1, h2, h3, h4]

/-- A later micro-step (R22). -/
theorem runCommand_micro {c : Chan} {k : Nat} {L : Locals} (h : atMicroStep s i sel c k L) :
    runCommand i sel needsInit body s = settle s (body c k L s) := by
  obtain ⟨h1, h2, h3, h4⟩ := h
  have h5 : s.setCc (.busy i k L) = s := by cases s; simp_all [State.setCc]
  simp [runCommand, h1, h2, h3, h4, h5]

/-- A selector out of range (R72, R210). -/
theorem runCommand_badChannel (h : canIssue s) (hc : selChan sel = none) :
    runCommand i sel needsInit body s = .next (s.respond .errChannel 0) := by
  simp [runCommand, h.1, h.2, hc]

/-- A channel that is not initialised (R215). -/
theorem runCommand_uninit {c : Chan} (h : canIssue s) (hc : selChan sel = some c) (hi : (s.ch.get c).init = false) :
    runCommand i sel true body s = .next (s.takeFault .uninit s.trace) := by
  simp [runCommand, h.1, h.2, hc, hi]

/-- INIT's issue, whose channel need not be initialised (R210, R212). -/
theorem runCommand_noInit {c : Chan} (h : canIssue s) (hc : selChan sel = some c) :
    runCommand i sel false body s = settle s (body c 0 .start (s.setCc (.busy i 0 .start))) := by
  simp [runCommand, h.1, h.2, hc]

/-- Everything the command frame can do when it answers a next state. -/
theorem runCommand_cases (h : runCommand i sel needsInit body s = .next t) :
    s.faults = none ∧ ∃ k L, progressOf i s.cc = some (k, L) ∧
      ((selChan sel = none ∧ t = s.respond .errChannel 0) ∨
       ∃ c, selChan sel = some c ∧
        ((needsInit = true ∧ (s.ch.get c).init = false ∧ t = s.takeFault .uninit s.trace) ∨
         ((needsInit = true → (s.ch.get c).init = true) ∧
          settle s (body c k L (s.setCc (.busy i k L))) = .next t))) := by
  unfold runCommand at h
  split at h
  · cases h
  · refine ⟨‹_›, ?_⟩
    split at h
    · cases h
    · rename_i k L hp
      refine ⟨k, L, hp, ?_⟩
      split at h
      · cases h; exact .inl ⟨‹_›, rfl⟩
      · rename_i c hc
        refine .inr ⟨c, hc, ?_⟩
        split at h
        · rename_i hi
          simp only [Bool.and_eq_true, Bool.not_eq_true'] at hi
          cases h; exact .inl ⟨hi.1, hi.2, rfl⟩
        · rename_i hi
          refine .inr ⟨fun hn => ?_, h⟩
          simpa [hn] using hi

end Command

/-! ### The handler frame -/

section Handler
variable {c : Chan} {kind : Kind} {handler : State → Effect State} {s t : State}

theorem handlerEnabled_faults (h : handlerEnabled s c kind = true) : s.faults = none := by
  simp only [handlerEnabled, Bool.and_eq_true, Option.isNone_iff_eq_none] at h
  exact h.1.2

theorem map_returnFromHandler (e : Effect State) : e.map returnFromHandler = e := by
  cases e <;> rfl

theorem takeEvent_run (h : handlerEnabled s c kind = true) : takeEvent c kind handler s = settle s (handler s) := by
  simp [takeEvent, handlerEnabled_faults h, h, map_returnFromHandler]

theorem takeEvent_faulted {f : Fault} (h : s.faults = some f) : takeEvent c kind handler s = .fault f := by
  simp [takeEvent, h]

/-- Everything the handler frame can do when it answers a next state. -/
theorem takeEvent_cases (h : takeEvent c kind handler s = .next t) :
    handlerEnabled s c kind = true ∧ settle s (handler s) = .next t := by
  unfold takeEvent at h
  split at h
  · cases h
  · split at h
    · exact ⟨‹_›, by rwa [map_returnFromHandler] at h⟩
    · cases h

end Handler

/-! ### Ring access -/

theorem popTx_empty (c : Chan) (s : State) (h : (s.tx.get c).len = 0) : popTx c s = raise .popEmpty s := by
  simp [popTx, Ring.popFront_empty _ _ h]

theorem popTx_some (c : Chan) (s : State) (h : (s.tx.get c).len ≠ 0) :
    popTx c s = .ok ((s.tx.get c).front (Config.freeByte s.draws),
      (s.setTx c { s.tx.get c with head := ((s.tx.get c).head + 1) % (s.tx.get c).cap, len := (s.tx.get c).len - 1 }).drawn
        (s.tx.get c).popDraws) := by
  simp [popTx, Ring.popFront_some _ _ h]

theorem popRx_some (c : Chan) (s : State) (h : (s.rx.get c).len ≠ 0) :
    popRx c s = .ok ((s.rx.get c).front (Config.freeByte s.draws),
      (s.setRx c { s.rx.get c with head := ((s.rx.get c).head + 1) % (s.rx.get c).cap, len := (s.rx.get c).len - 1 }).drawn
        (s.rx.get c).popDraws) := by
  simp [popRx, Ring.popFront_some _ _ h]

/-! ### Device primitives -/

@[simp] theorem halTdrEmpty_iff (c : Chan) (s : State) : halTdrEmpty c s = true ↔ (s.hal.get c).tdr = none := by
  simp [halTdrEmpty]

theorem halWriteTdr_empty (c : Chan) (b : Byte) (who : Who) (s : State) (h : (s.hal.get c).tdr = none) :
    halWriteTdr c b who s = .ok ((s.setHal c { s.hal.get c with tdr := some b }).emit (.tdrWrite c b who)) := by
  simp [halWriteTdr, h]

theorem halWriteTdr_free (c : Chan) (b : Byte) (who : Who) (s : State) (h : s.cfg.envModel = .free) :
    halWriteTdr c b who s = .ok ((s.setHal c { s.hal.get c with tdr := some b }).emit (.tdrWrite c b who)) := by
  simp [halWriteTdr, h]

theorem halWriteTdr_overrun (c : Chan) (b x : Byte) (who : Who) (s : State) (h : s.cfg.envModel = .reference)
    (hx : (s.hal.get c).tdr = some x) : halWriteTdr c b who s = raise .tdrOverrun s := by
  simp [halWriteTdr, h, hx]

/-- Everything a write of the TDR can do. -/
theorem halWriteTdr_cases (c : Chan) (b : Byte) (who : Who) (s : State) :
    (halWriteTdr c b who s = raise .tdrOverrun s ∧ s.cfg.envModel = .reference ∧ (s.hal.get c).tdr.isSome = true) ∨
    (halWriteTdr c b who s = .ok ((s.setHal c { s.hal.get c with tdr := some b }).emit (.tdrWrite c b who)) ∧
      (s.cfg.envModel = .free ∨ (s.hal.get c).tdr = none)) := by
  unfold halWriteTdr
  split
  · exact .inl ⟨rfl, ‹_›⟩
  · refine .inr ⟨rfl, ?_⟩
    cases h : s.cfg.envModel <;> simp_all

theorem halReadRdr_some (c : Chan) (b : Byte) (s : State) (h : (s.hal.get c).rdr = some b) :
    halReadRdr c s = .ok (b, s.setHal c { s.hal.get c with rdr := none, rxcPend := false }) := by
  simp [halReadRdr, h]

theorem halReadRdr_none (c : Chan) (s : State) (h : (s.hal.get c).rdr = none) : halReadRdr c s = raise .rdrEmpty s := by
  simp [halReadRdr, h]

end Sys2Proof.Machine
end

