-- ==== Sys2Proof/Laws/PerInstr.lean ====
section
/-! SUPPORT. Statements about every instruction as syntax, one lemma per constructor.

`EncodedShape`: what the encoding of a well-formed instruction looks like before its operands are read. -/

namespace Sys2Proof.Laws

/-- The operation code of a command (R71); event vectors and illegal words have none. -/
def opcodeOf : Instr → Option (BitVec 4)
  | .init _       => some 0x1
  | .setcb _ _    => some 0x2
  | .setbaud _ _  => some 0x3
  | .sendb _ _    => some 0x4
  | .enqb _ _     => some 0x5
  | .sendblk _ _  => some 0x6
  | .startbuf _   => some 0x7
  | .recv _       => some 0x8
  | .flushrx _    => some 0x9
  | .rxempty _    => some 0xA
  | .txpend _     => some 0xB
  | .ovfcnt _     => some 0xC
  | .rxc0         => none
  | .txc0         => none
  | .rxc1         => none
  | .txc1         => none
  | .reserved _   => none

/-- An event is encoded by the vector that names it; a command by a legal word with its operation code and channel
selector; an illegal word by itself. -/
def EncodedShape.Statement (i : Instr) : Prop :=
  i.wf = true →
  match encode i with
  | .vector ev => decodeVector ev = i
  | .command d =>
    match opcodeOf i with
    | some op => illegal d.word = false ∧ opField d.word = op ∧ Machine.commandSel i = some (chField d.word)
    | none    => illegal d.word = true

/-- A command word is legal when its code has a format that admits its operand field. -/
theorem legal_commandWord (op : BitVec 4) (ch : Sel) (arg : BitVec 24) (f : Format) (hf : formatOf op = some f)
    (ha : argAllowed f (commandWord op ch arg) = true) : illegal (commandWord op ch arg) = false := by
  simp [illegal, hf, ha]

namespace EncodedShape

theorem init (ch : Sel) : Statement (.init ch) := fun _ =>
  ⟨legal_commandWord _ _ _ .none rfl (by simp [argAllowed]), by simp, by simp [Machine.commandSel]⟩

theorem setcb (ch : Sel) (cb : Option Token) : Statement (.setcb ch cb) := fun _ => by
  refine ⟨legal_commandWord _ _ _ .callback rfl ?_, by simp, by simp [Machine.commandSel]⟩
  simp only [argAllowed, insField_commandWord, byteField, argBits_commandWord _ _ _ _ _ (by omega : 9 + 15 ≤ 24),
    argBits_commandWord _ _ _ _ _ (by omega : 0 + 8 ≤ 24)]
  cases cb with
  | none => simp [callbackArg]
  | some t =>
    have h : (callbackArg (some t)).extractLsb' 9 15 = 0 := by
      apply BitVec.eq_of_getElem_eq
      intro i hi
      interval_cases i <;> simp [callbackArg]
    rw [h]
    simp [callbackArg]

theorem setbaud (ch : Sel) (rate : Rate) : Statement (.setbaud ch rate) := fun h => by
  refine ⟨legal_commandWord _ _ _ .rate rfl ?_, by simp, by simp [Machine.commandSel]⟩
  simpa [argAllowed, rateField, Instr.wf] using h

theorem byteArg_allowed (op : BitVec 4) (ch : Sel) (b : Byte) :
    argAllowed .byte (commandWord op ch (byteArg b)) = true := by
  have h : (byteArg b).extractLsb' 8 16 = 0 := by
    apply BitVec.eq_of_getElem_eq
    intro i hi
    interval_cases i <;> simp [byteArg]
  simp [argAllowed, argBits_commandWord _ _ _ _ _ (by omega : 8 + 16 ≤ 24), h]

theorem sendb (ch : Sel) (b : Byte) : Statement (.sendb ch b) := fun _ =>
  ⟨legal_commandWord _ _ _ .byte rfl (byteArg_allowed _ _ _), by simp, by simp [Machine.commandSel]⟩

theorem enqb (ch : Sel) (b : Byte) : Statement (.enqb ch b) := fun _ =>
  ⟨legal_commandWord _ _ _ .byte rfl (byteArg_allowed _ _ _), by simp, by simp [Machine.commandSel]⟩

theorem sendblk (ch : Sel) (p : List Byte) : Statement (.sendblk ch p) := fun _ => by
  refine ⟨legal_commandWord _ _ _ .block rfl ?_, by simp, by simp [Machine.commandSel]⟩
  have h : (blockArg p.length).extractLsb' 16 8 = 0 := by
    apply BitVec.eq_of_getElem_eq
    intro i hi
    interval_cases i <;> simp [blockArg]
  simp [argAllowed, argBits_commandWord _ _ _ _ _ (by omega : 16 + 8 ≤ 24), h]

theorem startbuf (ch : Sel) : Statement (.startbuf ch) := fun _ =>
  ⟨legal_commandWord _ _ _ .none rfl (by simp [argAllowed]), by simp, by simp [Machine.commandSel]⟩

theorem recv (ch : Sel) : Statement (.recv ch) := fun _ =>
  ⟨legal_commandWord _ _ _ .none rfl (by simp [argAllowed]), by simp, by simp [Machine.commandSel]⟩

theorem flushrx (ch : Sel) : Statement (.flushrx ch) := fun _ =>
  ⟨legal_commandWord _ _ _ .none rfl (by simp [argAllowed]), by simp, by simp [Machine.commandSel]⟩

theorem rxempty (ch : Sel) : Statement (.rxempty ch) := fun _ =>
  ⟨legal_commandWord _ _ _ .none rfl (by simp [argAllowed]), by simp, by simp [Machine.commandSel]⟩

theorem txpend (ch : Sel) : Statement (.txpend ch) := fun _ =>
  ⟨legal_commandWord _ _ _ .none rfl (by simp [argAllowed]), by simp, by simp [Machine.commandSel]⟩

theorem ovfcnt (ch : Sel) : Statement (.ovfcnt ch) := fun _ =>
  ⟨legal_commandWord _ _ _ .none rfl (by simp [argAllowed]), by simp, by simp [Machine.commandSel]⟩

theorem rxc0 : Statement .rxc0 := fun _ => rfl
theorem txc0 : Statement .txc0 := fun _ => rfl
theorem rxc1 : Statement .rxc1 := fun _ => rfl
theorem txc1 : Statement .txc1 := fun _ => rfl

theorem reserved (w : Word) : Statement (.reserved w) := fun h => h

end EncodedShape

end Sys2Proof.Laws
end

