-- ==== Sys2Proof/Laws/Step.lean ====
section
/-! SUPPORT. Laws of the step: everything a step can do, and where the next instruction comes from. -/

namespace Sys2Proof.Machine

theorem fetchCall_busy {s : State} {i : Instr} {k : Nat} {L : Locals} (h : s.cc = .busy i k L) :
    fetchCall s = .run i s := by simp [fetchCall, h]

theorem fetchCall_idle_empty {s : State} (h : s.cc = .idle) (hc : s.cmds = []) : fetchCall s = .nothing := by
  simp [fetchCall, h, hc]

theorem fetchCall_idle {s : State} {d : Delivery} {ds : List Delivery} {i : Instr} (h : s.cc = .idle)
    (hc : s.cmds = d :: ds) (hd : decode (.command d) = .ok i) : fetchCall s = .run i { s with cmds := ds } := by
  simp [fetchCall, h, hc, hd]

/-- Everything `fetchCall` can find to run: the command in progress, or the host's next command. -/
theorem fetchCall_run_cases {s u : State} {i : Instr} (h : fetchCall s = .run i u) :
    (∃ k L, s.cc = .busy i k L ∧ u = s) ∨
    (s.cc = .idle ∧ ∃ d ds, s.cmds = d :: ds ∧ decode (.command d) = .ok i ∧ u = { s with cmds := ds }) := by
  unfold fetchCall at h
  split at h
  · cases h; exact .inl ⟨_, _, ‹_›, rfl⟩
  · refine .inr ⟨‹_›, ?_⟩
    split at h
    · cases h
    · split at h
      · cases h; exact ⟨_, _, ‹_›, ‹_›, rfl⟩
      · cases h

/-- A delivery that `fetchCall` refuses is a SENDBLK with a wrong number of payload bytes, and is consumed. -/
theorem fetchCall_mismatched_cases {s u : State} (h : fetchCall s = .mismatched u) :
    s.cc = .idle ∧ ∃ d ds e, s.cmds = d :: ds ∧ decode (.command d) = .error e ∧ u = { s with cmds := ds } := by
  unfold fetchCall at h
  split at h
  · cases h
  · refine ⟨‹_›, ?_⟩
    split at h
    · cases h
    · split at h
      · cases h
      · cases h; exact ⟨_, _, _, ‹_›, ‹_›, rfl⟩

/-- Everything a choice other than a hardware reset can do when it answers a next state. -/
theorem choiceStep_cases {s t : State} {x : Choice} (hx : x ≠ .reset) (h : choiceStep x s = .next t) :
    t = s ∨
    (x = .call ∧ ∃ i u, fetchCall s = .run i u ∧ exec i u = .next t) ∨
    (x = .call ∧ ∃ u, fetchCall s = .mismatched u ∧ t = u.refuse) ∨
    (∃ ev, x = .event ev ∧ vectorEnabled ev s = true ∧ exec (decodeVector ev) s = .next t) ∨
    environmentStep s x = some t := by
  have env : ∀ y, Host.Outcome.next ((environmentStep s y).getD s) = (.next t : Host.Outcome State Fault Refusal) →
      t = s ∨ environmentStep s y = some t := by
    intro y hy
    cases he : environmentStep s y with
    | none => rw [he] at hy; cases hy; exact .inl rfl
    | some u => rw [he] at hy; cases hy; exact .inr rfl
  cases x with
  | reset => exact absurd rfl hx
  | call =>
    simp only [choiceStep, callStep] at h
    split at h
    · cases h; exact .inl rfl
    · exact .inr (.inl ⟨rfl, _, _, ‹_›, h⟩)
    · cases h; exact .inr (.inr (.inl ⟨rfl, _, ‹_›, rfl⟩))
  | event ev =>
    simp only [choiceStep, eventStep] at h
    split at h
    · exact .inr (.inr (.inr (.inl ⟨ev, rfl, ‹_›, h⟩)))
    · cases h; exact .inl rfl
  | _ => exact (env _ h).imp id fun h => .inr (.inr (.inr h))

/-- Everything a step can do when it answers a next state. -/
theorem step_cases {s t : State} (h : step s = .next t) :
    (∃ rest, s.sched = .reset :: rest ∧ t = ({ s with sched := rest }).hardReset) ∨
    (s.faults = none ∧ s.sched = [] ∧ t = s) ∨
    (s.faults = none ∧ ∃ x rest, s.sched = x :: rest ∧ x ≠ .reset ∧ choiceStep x { s with sched := rest } = .next t) := by
  unfold step at h
  split at h
  · rename_i rest hs
    cases h; exact .inl ⟨rest, hs, rfl⟩
  · rename_i hnr
    split at h
    · cases h
    · rename_i hf
      split at h
      · cases h; exact .inr (.inl ⟨hf, ‹_›, rfl⟩)
      · rename_i x rest hs
        refine .inr (.inr ⟨hf, x, rest, hs, ?_, h⟩)
        rintro rfl
        exact hnr rest hs

/-- A step of a state whose next choice is `x`. -/
theorem step_cons {s : State} {x : Choice} {rest : List Choice} (hs : s.sched = x :: rest) (hx : x ≠ .reset)
    (hf : s.faults = none) : step s = choiceStep x { s with sched := rest } := by
  unfold step
  rw [hs]
  split
  · rename_i rest' h
    cases h; exact absurd rfl hx
  · simp [hf]

end Sys2Proof.Machine
end

