-- ==== Sys2Proof/Tests/Slice0.lean ====
section
/-! SUPPORT. The model's own tests. Expected results are from 95_test_vectors.md (the vector's name stands in each
comment) or written out from the encodings of 30_encoding.md; then one witness for the hypotheses of each statement. -/

namespace Sys2Proof.Tests

open Sys2Proof.Machine

/-! ### Decoding: words written out bit by bit as OP RSV CH ARG (R70, R71, R74) -/

/-- A word with no payload decodes to `i`. -/
def reads (w : Word) (i : Instr) : Bool := decide (decode (.command ⟨w, []⟩) = .ok i)

theorem test_decode_init : reads 0b0001_00_01_000000000000000000000000 (.init 1) = true := by decide
theorem test_decode_setcb_install :
    reads 0b0010_00_00_000000000000000_1_00000111 (.setcb 0 (some 7)) = true := by decide
theorem test_decode_setcb_clear :
    reads 0b0010_00_01_000000000000000_0_00000000 (.setcb 1 none) = true := by decide
theorem test_decode_setbaud : reads 0b0011_00_00_000000000010010110000000 (.setbaud 0 9600) = true := by decide
theorem test_decode_sendb : reads 0b0100_00_00_0000000000000000_01000001 (.sendb 0 0x41) = true := by decide
theorem test_decode_enqb : reads 0b0101_00_01_0000000000000000_01010101 (.enqb 1 0x55) = true := by decide
theorem test_decode_startbuf : reads 0b0111_00_10_000000000000000000000000 (.startbuf 2) = true := by decide
theorem test_decode_recv : reads 0b1000_00_11_000000000000000000000000 (.recv 3) = true := by decide
theorem test_decode_flushrx : reads 0b1001_00_00_000000000000000000000000 (.flushrx 0) = true := by decide
theorem test_decode_rxempty : reads 0b1010_00_01_000000000000000000000000 (.rxempty 1) = true := by decide
theorem test_decode_txpend : reads 0b1011_00_00_000000000000000000000000 (.txpend 0) = true := by decide
theorem test_decode_ovfcnt : reads 0b1100_00_01_000000000000000000000000 (.ovfcnt 1) = true := by decide

/-- Section 2.1: `SENDBLK 0, [0xAA, 0xBB]` is the bytes `02 00 00 60 AA BB`; a byte after them is not consumed. -/
theorem test_decode_sendblk_bytes :
    decodeBytes [0x02, 0x00, 0x00, 0x60, 0xAA, 0xBB, 0x11] = .ok (.sendblk 0 [0xAA, 0xBB], [0x11]) := by decide

/-- R76: the four vectors. -/
theorem test_decode_vectors :
    [decodeVector 0b00, decodeVector 0b01, decodeVector 0b10, decodeVector 0b11] = [.rxc0, .txc0, .rxc1, .txc1] := by
  decide

/-- Section 2.1: the illegal words of its table. -/
theorem test_decode_illegal_words :
    ([0x00000000, 0xD0000000, 0xE0000000, 0xF0000000, 0x14000000, 0x18000000, 0x1C000000, 0x10000001, 0x70000100,
      0x40000141, 0x20000007, 0x20000200, 0x30000000, 0x33000000, 0x60010000].all
        fun w => reads w (.reserved w)) = true := by decide

/-- Section 2.1: the legal words at the edges of their fields. -/
theorem test_decode_edge_words :
    (reads 0x400000FF (.sendb 0 0xFF) && reads 0x200001FF (.setcb 0 (some 255)) &&
      reads 0x30FFFFFF (.setbaud 0 16777215) && reads 0x12000000 (.init 2) && reads 0x13000000 (.init 3)) = true := by
  decide

/-- R75: a stream that ends inside a word, and inside a payload; X2: a payload of the wrong length. -/
theorem test_decode_rejections :
    decodeBytes [0x02, 0x00, 0x00] = .error .truncatedWord ∧
    decodeBytes [0x02, 0x00, 0x00, 0x60, 0xAA] = .error .truncatedPayload ∧
    decode (.command ⟨0x60000002, [0xAA]⟩) = .error .payloadMismatch := by decide

/-- Section 2.1: the bytes of `INIT 1`. -/
theorem test_encode_init_bytes : bytesOfWord 0x11000000 = [0x00, 0x00, 0x00, 0x11] := by decide

/-- R79, R86: the textual form. -/
theorem test_text :
    (Instr.sendblk 0 [0x48, 0x69, 0x21]).text = some "SENDBLK 0, [72, 105, 33]" ∧
    (Instr.setcb 0 none).text = some "SETCB 0, none" ∧ Instr.txc1.text = some "@TXC 1" ∧
    (Machine.Choice.arrive .c0 90).text = some "~ARRIVE 0, 90" := by decide

/-- The host's probe: a command row and an event row of spec/opcode_table.json. -/
theorem test_table_word :
    decodeTableWord 32 0x10000000 = some (.init 0) ∧ decodeTableWord 2 3 = some .txc1 := by decide

/-! ### Well-formedness: an ill-formed term for each check -/

theorem test_wf_refuses_rate_zero : (Instr.setbaud 0 0).wf = false := by decide
theorem test_wf_refuses_long_block (p : List Byte) (h : p.length = 65536) : (Instr.sendblk 0 p).wf = false := by
  show decide (p.length < 2 ^ 16) = false
  rw [h]; decide
theorem test_wf_refuses_legal_reserved : (Instr.reserved 0x10000000).wf = false := by decide
theorem test_wf_accepts :
    ((Instr.setbaud 0 1).wf && (Instr.sendblk 0 []).wf && (Instr.reserved 0x14000000).wf) = true := by decide

/-! ### Small states -/

/-- Configuration K. -/
def cfgK : Config := Config.exampleK

/-- Configuration K in the free device model. -/
def cfgFree : Config := { cfgK with envModel := .free }

/-- State R under a configuration. -/
def stateR (cfg : Config) : State := State.resetIn cfg ⟨0, 0⟩

/-- A channel in IDLE, as section 0 lists it in state I0. -/
def idleChan : ChanState := { init := true, ready := true, active := false, ovf := 0, cb := none }

/-- A device with nothing in it and its sources enabled, as section 0 lists it in state I0. -/
def idleDevice : Device := { tdr := none, tsr := none, rdr := none, txcPend := false, rxcPend := false,
                             txie := true, rxie := true, baud := 115200, lost := 0 }

/-- State I0 of section 0 under a configuration. -/
def stateI0 (cfg : Config) : State :=
  { stateR cfg with
    ch := (stateR cfg).ch.set .c0 idleChan
    tx := (stateR cfg).tx.set .c0 ⟨cfg.capTx.c0, 0, 0, 0, []⟩
    rx := (stateR cfg).rx.set .c0 ⟨cfg.capRx.c0, 0, 0, 0, []⟩
    hal := (stateR cfg).hal.set .c0 idleDevice
    trace := [.setBaud .c0 115200, .resp .ok 0] }

/-- Channel 0 of `s` with the given handshake flags. -/
def flags (ready active : Bool) (s : State) : State := s.setCh .c0 { s.ch.get .c0 with ready := ready, active := active }

/-- Channel 0 of `s` with TDR and TSR as given and the transmit-complete event pending or not. -/
def transmitter (tdr tsr : Option Byte) (pend : Bool) (s : State) : State :=
  s.setHal .c0 { s.hal.get .c0 with tdr := tdr, tsr := tsr, txcPend := pend }

/-- Channel 0 of `s` with a byte waiting in the RDR. -/
def received (b : Byte) (s : State) : State := s.setHal .c0 { s.hal.get .c0 with rdr := some b, rxcPend := true }

/-- `tx[0]` of `s` with the bytes of `bs` queued from cell 0 on (fewer than its capacity). -/
def queued (bs : List Byte) (s : State) : State :=
  s.setTx .c0 { s.tx.get .c0 with tail := bs.length, len := bs.length, store := bs.zipIdx.map fun x => (x.2, x.1) }

/-- The command in progress. -/
def busy (i : Instr) (k : Nat) (b : Option Byte) (s : State) : State := s.setCc (.busy i k ⟨b, 0⟩)

/-- `rx[1]` of capacity 2 full with 0x10 and 0x20, channel 1 initialised (program P2 after its step 3), RDR as given. -/
def stateP2 (rdr : Option Byte) : State :=
  { stateR cfgK with
    ch := (stateR cfgK).ch.set .c1 idleChan
    tx := (stateR cfgK).tx.set .c1 ⟨2, 0, 0, 0, []⟩
    rx := (stateR cfgK).rx.set .c1 ⟨2, 0, 0, 2, [(0, 0x10), (1, 0x20)]⟩
    hal := (stateR cfgK).hal.set .c1 { idleDevice with rdr := rdr, rxcPend := rdr.isSome } }

/-- The outcome is a next state with property `p`. -/
def after (o : Host.Outcome State Fault Refusal) (p : State → Bool) : Bool :=
  match o with
  | .next t    => p t
  | .fault _   => false
  | .refused _ => false

/-- The outcome is exactly the next state `t`. -/
def becomes (o : Host.Outcome State Fault Refusal) (t : State) : Bool := after o fun x => decide (x = t)

theorem next_of_after {o : Host.Outcome State Fault Refusal} {p : State → Bool} (h : after o p = true) :
    ∃ t, o = .next t ∧ p t = true := by
  cases o with
  | next t    => exact ⟨t, rfl, h⟩
  | fault f   => cases h
  | refused r => cases h

/-! ### Ring primitives (section 2.2) -/

/-- RB1. -/
theorem test_ring_push :
    (⟨4, 2, 3, 1, [(2, 0x40)]⟩ : Ring).pushBack 0x41 = (true, ⟨4, 2, 0, 2, [(2, 0x40), (3, 0x41)]⟩) := by decide

/-- RB2, RB3. -/
theorem test_ring_push_full :
    (⟨2, 0, 0, 2, [(0, 1), (1, 2)]⟩ : Ring).pushBack 0x99 = (false, ⟨2, 0, 0, 2, [(0, 1), (1, 2)]⟩) ∧
    (⟨0, 0, 0, 0, []⟩ : Ring).pushBack 0x99 = (false, ⟨0, 0, 0, 0, []⟩) := by decide

/-- RB4: the free value is not looked at. -/
theorem test_ring_pop (free : Byte) :
    (⟨4, 3, 1, 2, [(0, 0x20), (3, 0x10)]⟩ : Ring).popFront free =
      some (0x10, ⟨4, 0, 1, 1, [(0, 0x20), (3, 0x10)]⟩) := by
  simp [Ring.popFront, Ring.front, Memory.read]

/-- RB5. -/
theorem test_ring_flush :
    let r := (⟨4, 3, 1, 2, [(0, 0x20), (3, 0x10)]⟩ : Ring).flush
    (r.cap, r.head, r.tail, r.len) = (4, 0, 0, 0) := by decide

/-- RB6. -/
theorem test_ring_fifo :
    (ringRun 0 [.push 0xA, .push 0xB, .push 0xC, .pop, .push 0xD, .pop, .pop, .pop] (Ring.create 3)).map
      (fun x => (x.popped, x.ring.head, x.ring.tail, x.ring.len)) = some ([0xA, 0xB, 0xC, 0xD], 1, 1, 0) := by decide

/-! ### Commands (sections 2.1, 2.3, 2.4, 2.7) -/

/-- `0x00000000` responds `0x40000000`. -/
theorem test_reserved : becomes (exec (.reserved 0) (stateI0 cfgK)) ((stateI0 cfgK).emit (.resp .errIllegal 0)) = true ∧
    responseWord .errIllegal 0 = 0x40000000 := by decide

/-- State I0 is R followed by `INIT 0` (the rates of R taken as 0). -/
theorem test_init : becomes (exec (.init 0) (stateR cfgK)) (stateI0 cfgK) = true := by decide

/-- CC1. -/
theorem test_init_twice :
    becomes (exec (.init 0) (stateI0 cfgK)) { stateI0 cfgK with faults := some .reinit } = true := by decide

/-- `0x200001FF`: `cb = some 255`. -/
theorem test_setcb :
    after (exec (.setcb 0 (some 255)) (stateI0 cfgK)) (fun t => decide ((t.ch.get .c0).cb = some 255)) = true := by decide

/-- CC3. -/
theorem test_setbaud : after (exec (.setbaud 0 9600) (stateI0 cfgK)) (fun t => decide ((t.hal.get .c0).baud = 9600 ∧
    t.trace = (stateI0 cfgK).trace ++ [.setBaud .c0 9600, .resp .ok 0])) = true := by decide

/-- CC4. -/
theorem test_setbaud_in_flight :
    after (exec (.setbaud 0 9600) (flags false false (stateI0 cfgK)))
      (fun t => decide (t.faults = some .baudInFlight)) = true := by decide

/-- Program P4 step 3: holding. -/
theorem test_sendb_holds :
    after (exec (.sendb 0 0x42) (transmitter (some 0x41) none false (flags false false (stateI0 cfgK))))
      (fun t => decide (t.cc = .busy (.sendb 0 0x42) 0 ⟨none, 0⟩)) = true := by decide

/-- FT1, second transition. -/
theorem test_sendb_writes :
    after (exec (.sendb 0 0x41) (busy (.sendb 0 0x41) 1 none (stateI0 cfgK)))
      (fun t => decide ((t.hal.get .c0).tdr = some 0x41 ∧ handshake (t.ch.get .c0) = .single ∧ t.cc = .idle)) = true := by
  decide

/-- FT5's second ENQB. -/
theorem test_enqb :
    after (exec (.enqb 0 0x32) (queued [0x31] (stateI0 cfgK)))
      (fun t => decide ((t.tx.get .c0).queue = [some 0x31, some 0x32])) = true := by decide

/-- FT3: a ring of capacity 0 drops the byte. -/
theorem test_enqb_drops :
    after (exec (.enqb 0 0x55) (stateI0 { cfgK with capTx := ⟨0, 2⟩ }))
      (fun t => decide ((t.tx.get .c0).len = 0 ∧ t.trace.getLast? = some (.resp .ok 0))) = true := by decide

/-- V3 (a). -/
theorem test_sendblk_fails_when_it_would_fill :
    becomes (exec (.sendblk 0 [4, 5, 6, 7, 8]) (queued [1, 2, 3] (stateI0 cfgK)))
      ((queued [1, 2, 3] (stateI0 cfgK)).emit (.resp .fail 0)) = true := by decide

/-- V3 (b), first transition. -/
theorem test_sendblk_starts :
    after (exec (.sendblk 0 [4, 5, 6, 7]) (queued [1, 2, 3] (stateI0 cfgK)))
      (fun t => decide (t.cc = .busy (.sendblk 0 [4, 5, 6, 7]) 1 ⟨none, 0⟩)) = true := by decide

/-- FT4, second transition. -/
theorem test_startbuf_pop_empty :
    after (exec (.startbuf 0) (busy (.startbuf 0) 1 none (flags true true (stateI0 cfgK))))
      (fun t => decide (t.faults = some .popEmpty)) = true := by decide

/-- TX7, last transition. -/
theorem test_startbuf_writes :
    after (exec (.startbuf 0) (busy (.startbuf 0) 3 (some 0x31) (flags true true (stateI0 cfgK))))
      (fun t => decide (handshake (t.ch.get .c0) = .buffered ∧ (t.hal.get .c0).tdr = some 0x31)) = true := by decide

/-- V9. -/
theorem test_recv_no_data :
    becomes (exec (.recv 0) (stateI0 cfgK)) ((stateI0 cfgK).emit (.resp .noData 0)) = true := by decide

/-- Program P2 step 7. -/
theorem test_recv :
    after (exec (.recv 1) (stateP2 none)) (fun t => decide ((t.rx.get .c1).head = 1 ∧
      (t.rx.get .c1).queue = [some 0x20] ∧ t.trace = [.resp .ok 0x10])) = true := by decide

/-- FR7: the byte in the RDR is left alone. -/
theorem test_flushrx :
    after (exec (.flushrx 0) (received 0x11 (stateI0 cfgK))) (fun t => decide ((t.rx.get .c0).len = 0 ∧
      (t.hal.get .c0).rdr = some 0x11 ∧ (t.hal.get .c0).rxcPend = true)) = true := by decide

/-- FR1. -/
theorem test_rxempty_true :
    becomes (exec (.rxempty 0) (stateI0 cfgK)) ((stateI0 cfgK).emit (.resp .ok 1)) = true := by decide

/-- FR2's shape, on channel 1. -/
theorem test_rxempty_false :
    after (exec (.rxempty 1) (stateP2 none)) (fun t => decide (t.trace = [.resp .ok 0])) = true := by decide

/-- FT11. -/
theorem test_txpend_true :
    after (exec (.txpend 0) (flags false true (stateI0 cfgK)))
      (fun t => decide (t.trace.getLast? = some (.resp .ok 1))) = true := by decide

/-- CC7. -/
theorem test_txpend_uninit :
    becomes (exec (.txpend 0) (stateR cfgK)) { stateR cfgK with faults := some .uninit } = true := by decide

/-- Program P2 step 6. -/
theorem test_ovfcnt :
    after (exec (.ovfcnt 1) ((stateP2 none).setCh .c1 { idleChan with ovf := 2 }))
      (fun t => decide (t.trace = [.resp .ok 2] ∧ (t.ch.get .c1).ovf = 2)) = true := by decide

/-! ### Handlers (sections 2.5, 2.6) -/

/-- RX2. -/
theorem test_rxc_buffers :
    after (exec .rxc0 (received 0x5A (stateI0 cfgK))) (fun t => decide ((t.rx.get .c0).queue = [some 0x5A] ∧
      (t.hal.get .c0).rdr = none ∧ (t.hal.get .c0).rxcPend = false)) = true := by decide

/-- RX7. -/
theorem test_rxc_callback :
    after (exec .rxc0 (received 0 ((stateI0 cfgK).setCh .c0 { idleChan with cb := some 3 })))
      (fun t => decide (t.trace.getLast? = some (.callback .c0 3 0) ∧ (t.rx.get .c0).len = 0)) = true := by decide

/-- Program P2 step 4. -/
theorem test_rxc1_overflows :
    after (exec .rxc1 (stateP2 (some 0x30))) (fun t => decide ((t.ch.get .c1).ovf = 1 ∧
      (t.rx.get .c1).queue = [some 0x10, some 0x20])) = true := by decide

/-- RX4, RX5: the second increment, `OVF_WIDTH = 1`. -/
theorem test_ovf_inc_at_max :
    ovfInc { cfgK with ovfWidth := 1, ovfAtMax := .wrap } 1 = 0 ∧
    ovfInc { cfgK with ovfWidth := 1, ovfAtMax := .saturate } 1 = 1 := by decide

/-- TX12. -/
theorem test_txc_feeds :
    after (exec .txc0 (queued [0x32] (transmitter none none true (flags false true (stateI0 cfgK)))))
      (fun t => decide (handshake (t.ch.get .c0) = .buffered ∧ (t.hal.get .c0).tdr = some 0x32 ∧
        (t.tx.get .c0).len = 0 ∧ t.trace.getLast? = some (.tdrWrite .c0 0x32 .engine))) = true := by decide

/-- TX13. -/
theorem test_txc_done :
    after (exec .txc0 (transmitter none none true (flags false true (stateI0 cfgK))))
      (fun t => decide (handshake (t.ch.get .c0) = .idle ∧ (t.hal.get .c0).tdr = none ∧
        (t.hal.get .c0).txcPend = false)) = true := by decide

/-! ### Device, dispatch and reset (sections 2.5, 2.6, 2.8) -/

/-- DV1, DV2. -/
theorem test_move_shift :
    after (step { transmitter (some 0x41) none false (stateI0 cfgK) with sched := [.move .c0] })
      (fun t => decide ((t.hal.get .c0).tdr = none ∧ (t.hal.get .c0).tsr = some 0x41)) = true ∧
    after (step { transmitter none (some 0x41) false (stateI0 cfgK) with sched := [.shift .c0] })
      (fun t => decide ((t.hal.get .c0).txcPend = true ∧ t.trace.getLast? = some (.line .c0 0x41))) = true := by decide

/-- TX3: a shift with a full TDR raises no event. -/
theorem test_shift_raises_no_event :
    after (step { transmitter (some 0x99) (some 0x31) false (stateI0 cfgK) with sched := [.shift .c0] })
      (fun t => !(t.hal.get .c0).txcPend) = true := by decide

/-- DV3, second arrival, and RX3: the device drops the byte; the handler's source is not enabled in R. -/
theorem test_arrive_full :
    after (step { received 0x12 (stateR cfgK) with sched := [.arrive .c0 0x13] })
      (fun t => decide ((t.hal.get .c0).rdr = some 0x12 ∧ (t.hal.get .c0).lost = 1) && !anyHandlerEnabled t) = true := by
  decide

/-- DV5: an injected byte replaces the waiting one. -/
theorem test_inject :
    after (step { received 1 (stateI0 cfgFree) with sched := [.injRx .c0 2] })
      (fun t => decide ((t.hal.get .c0).rdr = some 2 ∧ (t.hal.get .c0).lost = 0)) = true := by decide

/-- Program P5 steps 5 and 6: the engine's write is taken, then the facade's faults; DV7: reset of a faulted machine. -/
theorem test_overrun_and_reset :
    after (exec (.sendb 0 0x99) (busy (.sendb 0 0x99) 1 none (transmitter (some 2) none false (stateI0 cfgK))))
      (fun t => decide (t.faults = some .tdrOverrun ∧ t.cc = .busy (.sendb 0 0x99) 1 ⟨none, 0⟩) &&
        after (step { t with sched := [.reset] }) (fun u => decide (u.faults = none ∧ u.cc = .idle ∧
          u.trace = t.trace ∧ u.ch = (stateR cfgK).ch ∧ (u.hal.get .c0).tdr = none))) = true := by decide

/-- The host's placement: the very next step after reset runs the placed command, and the placed vector's handler. -/
theorem test_placed_words_run :
    after (step (State.reset.withFetchWord 32 0x10000000)) (fun t => (t.ch.get .c0).init) = true ∧
    after (step (State.reset.withFetchWord 2 1)) (fun t => decide (t.faults = some .uninit)) = true := by decide

/-! ### Witnesses: for each statement with hypotheses, states and operands that meet all of them together -/

/-- State I0 in configuration K. -/
def s0 : State := stateI0 cfgK

/-- `s` with the choices and the commands given. -/
def offered (sched : List Choice) (cmds : List Delivery) (s : State) : State := { s with sched := sched, cmds := cmds }

theorem machineInv_intro {s : State} (h : s.cfg.wf) (h0 : ChannelInv s .c0) (h1 : ChannelInv s .c1)
    (hp : legalProgress s = true) : MachineInv s :=
  ⟨h, fun c => by cases c <;> assumption, hp⟩

theorem test_witness_DecodeOfEncodeIsTheInstruction :
    (Instr.setbaud 0 1).wf = true ∧ (Instr.setbaud 3 0xFFFFFF).wf = true ∧ (Instr.sendblk 1 [0xAA]).wf = true ∧
    (Instr.reserved 0).wf = true := by decide

theorem test_witness_DecodedInstructionIsSpelledByItsCode :
    decode (.command ⟨0x60000001, [7]⟩) = .ok (.sendblk 0 [7]) ∧ decode (.command ⟨0x10000000, [9]⟩) = .ok (.init 0) ∧
    decode (.vector 3) = .ok .txc1 := by decide

theorem test_witness_ByteStreamGivesBackCommandAndRest :
    (Instr.sendblk 0 [1, 2]).wf = true ∧ encode (.sendblk 0 [1, 2]) = .command ⟨0x60000002, [1, 2]⟩ ∧
    (Instr.reserved 0xF0000000).wf = true ∧ encode (.reserved 0xF0000000) = .command ⟨0xF0000000, []⟩ := by decide

theorem test_witness_StepRunsTheCallContextsCommand :
    (s0.faults = none ∧ s0.cc = .idle ∧ (offered [.call] [⟨0x40000041, []⟩] s0).sched = [.call] ∧
      (offered [.call] [⟨0x40000041, []⟩] s0).cmds = [⟨0x40000041, []⟩] ∧
      decode (.command ⟨0x40000041, []⟩) = .ok (.sendb 0 0x41)) ∧
    ((busy (.startbuf 0) 1 none s0).faults = none ∧ (busy (.startbuf 0) 1 none s0).cc = .busy (.startbuf 0) 1 ⟨none, 0⟩ ∧
      (offered [.call, .reset] [] (busy (.startbuf 0) 1 none s0)).sched = [.call, .reset]) := by decide

/-- An enabled receive event, and a transmit event that is not pending. -/
theorem test_witness_StepRunsExactlyTheEnabledHandler :
    let s := offered [.event 0] [] (received 1 s0)
    s.faults = none ∧ s.sched = .event 0 :: [] ∧
    (((s.hal.get .c0).pending .rxc = true ∧ (s.hal.get .c0).enable .rxc = true ∧ s.refused = false) ∧
      ¬((s.hal.get .c0).pending .txc = true ∧ (s.hal.get .c0).enable .txc = true ∧ s.refused = false)) := by decide

theorem test_witness_FaultedMachineStaysStopped :
    let s := offered [.call] [] { s0 with faults := some .popEmpty }
    s.faults = some .popEmpty ∧ ∀ rest, s.sched ≠ .reset :: rest :=
  ⟨rfl, fun _ => by simp [offered]⟩

theorem test_witness_HardwareResetAtAnyState :
    (offered [.reset, .call] [] (busy (.sendb 0 1) 0 none s0)).sched = .reset :: [.call] := by decide

theorem test_witness_RefusedRequestsOnlySetTheFlag :
    (let s := offered [.call] [⟨0x60000002, [1]⟩] s0;
      s.faults = none ∧ s.cc = .idle ∧ s.sched = .call :: [] ∧ s.cmds = ⟨0x60000002, [1]⟩ :: []) ∧
    (illegal 0x60000002 = false ∧ opField 0x60000002 = 6 ∧ [(1 : Byte)].length ≠ (countField 0x60000002).toNat) ∧
    (let s := offered [.forbidden .callbackTouchesCore] [] s0;
      s.faults = none ∧ s.sched = .forbidden .callbackTouchesCore :: []) := by decide

theorem test_canIssue : canIssue s0 := by unfold canIssue; decide

theorem test_canIssueOn : canIssueOn s0 0 .c0 ∧ canIssueOn (stateP2 none) 1 .c1 := by
  unfold canIssueOn canIssue; decide

theorem test_witness_IllegalWordRespondsErrIllegal : illegal 0x30000000 = true ∧ illegal 0xFFFFFFFF = true ∧ canIssue s0 :=
  ⟨by decide, by decide, test_canIssue⟩

theorem test_witness_SelectorOutOfRangeRespondsErrChannel :
    commandSel (.init 2) = some 2 ∧ commandSel (.sendblk 3 []) = some 3 ∧ canIssue s0 :=
  ⟨by decide, by decide, test_canIssue⟩

theorem test_witness_UninitialisedChannelFaultsUninit :
    commandSel (.txpend 1) = some 1 ∧ selChan 1 = some .c1 ∧ (∀ ch, Instr.txpend 1 ≠ .init ch) ∧
    (s0.ch.get .c1).init = false ∧ canIssue s0 :=
  ⟨by decide, by decide, fun _ => by simp, by decide, test_canIssue⟩

theorem test_witness_InitGivesTheDefaultState :
    canIssue s0 ∧ (selChan 1 = some .c1 ∧ (s0.ch.get .c1).init = false) ∧
    (selChan 0 = some .c0 ∧ (s0.ch.get .c0).init = true) :=
  ⟨test_canIssue, by decide, by decide⟩

/-- The first clause as for the statement before; the second with a command that pushes. -/
theorem test_witness_InitIsAllowedOncePerReset :
    (canIssue s0 ∧ selChan 1 = some .c1 ∧ (s0.ch.get .c1).init = false) ∧
    (canIssue s0 ∧ selChan 0 = some .c0 ∧ (s0.ch.get .c0).init = true) ∧
    (let s := offered [.call] [⟨0x50000031, []⟩] s0;
      (s.ch.get .c0).init = true ∧ (∀ rest, s.sched ≠ .reset :: rest) ∧
      after (step s) (fun t => decide ((t.tx.get .c0).len = 1)) = true) :=
  ⟨⟨test_canIssue, by decide, by decide⟩, ⟨test_canIssue, by decide, by decide⟩, by decide,
   fun _ => by simp [offered], by decide⟩

theorem test_witness_SetcbWritesTheCallbackSlot : canIssueOn s0 0 .c0 := test_canIssueOn.1

/-- IDLE, SINGLE and BUFFERED. -/
theorem test_witness_SetbaudAppliesTheRateOrFaults :
    (canIssueOn s0 0 .c0 ∧ (s0.ch.get .c0).ready = true ∧ (s0.ch.get .c0).active = false) ∧
    (canIssueOn (flags false false s0) 0 .c0 ∧ ((flags false false s0).ch.get .c0).ready = false) ∧
    (canIssueOn (flags false true s0) 0 .c0 ∧ ((flags false true s0).ch.get .c0).active = true) := by
  unfold canIssueOn canIssue; decide

/-- One free cell left, and a full ring (capacity 8; V1's ring of capacity 2 is the second). -/
theorem test_witness_EnqbStoresOrDropsItsByte :
    (canIssueOn (queued [1, 2, 3, 4, 5, 6, 7] s0) 0 .c0 ∧
      ((queued [1, 2, 3, 4, 5, 6, 7] s0).tx.get .c0).len < ((queued [1, 2, 3, 4, 5, 6, 7] s0).tx.get .c0).cap) ∧
    (let s := (stateP2 none).setTx .c1 ⟨2, 0, 0, 2, [(0, 0xA1), (1, 0xA2)]⟩;
      canIssueOn s 1 .c1 ∧ (s.tx.get .c1).cap ≤ (s.tx.get .c1).len) := by
  unfold canIssueOn canIssue; decide

theorem test_witness_SendbHoldsOnAFullTdrElseCompletes :
    canIssueOn s0 0 .c0 ∧ (s0.hal.get .c0).tdr = none ∧
    (let s := transmitter (some 1) none false s0;
      canIssueOn s 0 .c0 ∧ (s.hal.get .c0).tdr ≠ none) := by
  unfold canIssueOn canIssue; decide

/-- The three holds, the TDR empty and full. -/
theorem test_witness_HoldAdvancesOnlyOnAnEmptyTdr :
    atMicroStep (busy (.sendb 0 9) 0 none s0) (.sendb 0 9) 0 .c0 0 ⟨none, 0⟩ ∧
    atMicroStep (busy (.startbuf 0) 2 (some 1) s0) (.startbuf 0) 0 .c0 2 ⟨some 1, 0⟩ ∧
    atMicroStep (busy (.sendblk 0 [5]) 4 (some 5) s0) (.sendblk 0 [5]) 0 .c0 4 ⟨some 5, 0⟩ ∧
    (s0.hal.get .c0).tdr = none ∧
    (let s := busy (.sendb 0 9) 0 none (transmitter (some 1) none false s0);
      atMicroStep s (.sendb 0 9) 0 .c0 0 ⟨none, 0⟩ ∧ (s.hal.get .c0).tdr ≠ none) := by
  unfold atMicroStep; decide

/-- The three write micro-steps with an empty TDR, one in the free model and one in the reference model with a full one. -/
theorem test_witness_FacadeWriteOrTdrOverrun :
    atMicroStep (busy (.sendb 0 9) 1 none s0) (.sendb 0 9) 0 .c0 1 ⟨none, 0⟩ ∧
    atMicroStep (busy (.startbuf 0) 3 (some 1) s0) (.startbuf 0) 0 .c0 3 ⟨some 1, 0⟩ ∧
    atMicroStep (busy (.sendblk 0 [5]) 5 (some 5) s0) (.sendblk 0 [5]) 0 .c0 5 ⟨some 5, 0⟩ ∧
    (let s := busy (.sendb 0 9) 1 none (transmitter (some 1) none false (stateI0 cfgFree));
      atMicroStep s (.sendb 0 9) 0 .c0 1 ⟨none, 0⟩ ∧ s.cfg.envModel = .free) ∧
    (let s := busy (.sendb 0 9) 1 none (transmitter (some 1) none false s0);
      atMicroStep s (.sendb 0 9) 0 .c0 1 ⟨none, 0⟩ ∧ (s.hal.get .c0).tdr ≠ none ∧ s.cfg.envModel = .reference) := by
  unfold atMicroStep; decide

theorem test_witness_StartbufIssueSetsActive : canIssueOn s0 0 .c0 := test_canIssueOn.1

/-- An empty ring, and one with one byte; both commands. -/
theorem test_witness_FacadePopOrPopEmpty :
    (atMicroStep (busy (.startbuf 0) 1 none s0) (.startbuf 0) 0 .c0 1 ⟨none, 0⟩ ∧ (s0.tx.get .c0).len = 0) ∧
    (let s := busy (.sendblk 0 [5]) 3 none (queued [5] s0);
      atMicroStep s (.sendblk 0 [5]) 0 .c0 3 ⟨none, 0⟩ ∧ (s.tx.get .c0).len ≠ 0 ∧
      Memory.read (s.tx.get .c0).store (s.tx.get .c0).head = some 5) := by
  unfold atMicroStep; decide

theorem test_witness_StartbufCompletesWithAnEmptyTdr :
    let s := queued [0x31, 0x32] s0
    canIssueOn s 0 .c0 ∧ (s.hal.get .c0).tdr = none ∧ (s.tx.get .c0).len ≠ 0 ∧
    Memory.read (s.tx.get .c0).store (s.tx.get .c0).head = some 0x31 := by
  unfold canIssueOn canIssue; decide

/-- Seven bytes fit in an empty ring of capacity 8; eight do not, and none do not (V10, V2). -/
theorem test_witness_SendblkHeadroomIsStrict :
    canIssueOn s0 0 .c0 ∧
    (0 < [(1 : Byte), 2, 3, 4, 5, 6, 7].length ∧
      (s0.tx.get .c0).len + [(1 : Byte), 2, 3, 4, 5, 6, 7].length < (s0.tx.get .c0).cap) ∧
    ¬(0 < [(1 : Byte), 2, 3, 4, 5, 6, 7, 8].length ∧
      (s0.tx.get .c0).len + [(1 : Byte), 2, 3, 4, 5, 6, 7, 8].length < (s0.tx.get .c0).cap) ∧
    ¬(0 < ([] : List Byte).length ∧ (s0.tx.get .c0).len + ([] : List Byte).length < (s0.tx.get .c0).cap) := by
  unfold canIssueOn canIssue; decide

/-- The first and the last payload byte, a push that finds no room, and the micro-step after the last byte. -/
theorem test_witness_SendblkCopiesOneByteAtATime :
    (atMicroStep (busy (.sendblk 0 [5, 6]) 1 none s0) (.sendblk 0 [5, 6]) 0 .c0 1 ⟨none, 0⟩ ∧
      [(5 : Byte), 6][0]? = some 5 ∧ (s0.tx.get .c0).len < (s0.tx.get .c0).cap) ∧
    (let s := (queued [5] s0).setCc (.busy (.sendblk 0 [5, 6]) 2 ⟨none, 1⟩);
      atMicroStep s (.sendblk 0 [5, 6]) 0 .c0 2 ⟨none, 1⟩ ∧ 2 ≤ [(5 : Byte), 6].length ∧
      [(5 : Byte), 6][1]? = some 6 ∧ (s.tx.get .c0).len < (s.tx.get .c0).cap) ∧
    (let s := busy (.sendblk 0 [5]) 1 none (stateI0 { cfgK with capTx := ⟨0, 2⟩ });
      atMicroStep s (.sendblk 0 [5]) 0 .c0 1 ⟨none, 0⟩ ∧ [(5 : Byte)][0]? = some 5 ∧
      (s.tx.get .c0).cap ≤ (s.tx.get .c0).len) ∧
    atMicroStep (busy (.sendblk 0 [5, 6]) 3 none s0) (.sendblk 0 [5, 6]) 0 .c0 3 ⟨none, 0⟩ := by
  unfold atMicroStep; decide

/-- V3 (b). -/
theorem test_witness_SendblkCompletesAllOrNothing :
    let s := queued [1, 2, 3] s0
    canIssueOn s 0 .c0 ∧ (s.hal.get .c0).tdr = none ∧ (s.tx.get .c0).wf ∧ 0 < [(4 : Byte), 5, 6, 7].length ∧
    (s.tx.get .c0).len + [(4 : Byte), 5, 6, 7].length < (s.tx.get .c0).cap := by
  unfold canIssueOn canIssue; decide

/-- A byte in the ring, an empty ring, and a ring of capacity 0. -/
theorem test_witness_RecvTakesTheOldestByteOrNoData :
    (canIssueOn (stateP2 none) 1 .c1 ∧ 0 < ((stateP2 none).rx.get .c1).cap ∧ 0 < ((stateP2 none).rx.get .c1).len ∧
      Memory.read ((stateP2 none).rx.get .c1).store ((stateP2 none).rx.get .c1).head = some 0x10) ∧
    (canIssueOn s0 0 .c0 ∧ ¬(0 < (s0.rx.get .c0).cap ∧ 0 < (s0.rx.get .c0).len)) ∧
    (let s := stateI0 { cfgK with capRx := ⟨0, 2⟩ };
      canIssueOn s 0 .c0 ∧ ¬(0 < (s.rx.get .c0).cap ∧ 0 < (s.rx.get .c0).len)) := by
  unfold canIssueOn canIssue; decide

theorem test_witness_FlushrxEmptiesTheReceiveRing : canIssueOn (stateP2 none) 1 .c1 := test_canIssueOn.2

theorem test_witness_StatusQueriesReportAndWriteNothing : canIssueOn s0 0 .c0 ∧ canIssueOn (stateP2 none) 1 .c1 :=
  test_canIssueOn

theorem test_witness_NoDataWordIsNoByteWord : canIssueOn s0 0 .c0 ∧ canIssueOn (stateP2 none) 1 .c1 := test_canIssueOn

/-- The counter at 0 and at the largest value 28 bits hold. -/
theorem test_witness_OvfcntReportsTheCounter :
    canIssueOn s0 0 .c0 ∧ (s0.ch.get .c0).ovf < 2 ^ 28 ∧
    (let s := s0.setCh .c0 { idleChan with ovf := 0xFFFFFFF };
      canIssueOn s 0 .c0 ∧ (s.ch.get .c0).ovf < 2 ^ 28) := by
  unfold canIssueOn canIssue; decide

/-- SINGLE; BUFFERED with an empty ring; BUFFERED with a byte, the TDR empty; the same with a full TDR, free and reference. -/
theorem test_witness_TransmitEngineSetsDoneOrFeedsTheNextByte :
    (let s := transmitter none none true (flags false false s0);
      canTake s .c0 .txc ∧ (s.ch.get .c0).active = false) ∧
    (let s := transmitter none none true (flags false true s0);
      canTake s .c0 .txc ∧ (s.tx.get .c0).len = 0) ∧
    (let s := queued [0x32] (transmitter none none true (flags false true s0));
      canTake s .c0 .txc ∧ (s.ch.get .c0).active = true ∧ (s.tx.get .c0).len ≠ 0 ∧ (s.hal.get .c0).tdr = none ∧
      Memory.read (s.tx.get .c0).store (s.tx.get .c0).head = some 0x32) ∧
    (let s := queued [0x32] (transmitter (some 1) none true (flags false true (stateI0 cfgFree)));
      canTake s .c0 .txc ∧ (s.ch.get .c0).active = true ∧ (s.tx.get .c0).len ≠ 0 ∧ s.cfg.envModel = .free) ∧
    (let s := queued [0x32] (transmitter (some 1) none true (flags false true s0));
      canTake s .c0 .txc ∧ (s.ch.get .c0).active = true ∧ (s.tx.get .c0).len ≠ 0 ∧
      (s.hal.get .c0).tdr ≠ none ∧ s.cfg.envModel = .reference) := by
  unfold canTake; decide

theorem test_witness_ReceiveEngineInvokesTheCallback :
    let s := received 0x42 (s0.setCh .c0 { idleChan with cb := some 5 })
    canTake s .c0 .rxc ∧ (s.hal.get .c0).rdr = some 0x42 ∧ (s.ch.get .c0).cb = some 5 := by
  unfold canTake; decide

theorem test_witness_ReceiveEngineBuffersTheByte :
    let s := received 0x5A s0
    canTake s .c0 .rxc ∧ (s.hal.get .c0).rdr = some 0x5A ∧ (s.ch.get .c0).cb = none ∧
    (s.rx.get .c0).len < (s.rx.get .c0).cap := by
  unfold canTake; decide

/-- The counter one below its maximum, and at it under both values of `OVF_AT_MAX`; a ring of capacity 0 (RX4, RX5). -/
theorem test_witness_ReceiveEngineCountsTheDroppedByte :
    (let s := received 1 (stateI0 { cfgK with capRx := ⟨0, 2⟩, ovfWidth := 1 });
      canTake s .c0 .rxc ∧ (s.hal.get .c0).rdr = some 1 ∧ (s.ch.get .c0).cb = none ∧
      (s.rx.get .c0).cap ≤ (s.rx.get .c0).len ∧ (s.ch.get .c0).ovf < 2 ^ s.cfg.ovfWidth - 1) ∧
    (let s := received 1 ((stateI0 { cfgK with capRx := ⟨0, 2⟩, ovfWidth := 1, ovfAtMax := .wrap }).setCh .c0
        { idleChan with ovf := 1 });
      canTake s .c0 .rxc ∧ (s.hal.get .c0).rdr = some 1 ∧ (s.ch.get .c0).cb = none ∧
      (s.rx.get .c0).cap ≤ (s.rx.get .c0).len ∧ 2 ^ s.cfg.ovfWidth - 1 ≤ (s.ch.get .c0).ovf ∧ s.cfg.ovfAtMax = .wrap) ∧
    (let s := received 1 ((stateI0 { cfgK with capRx := ⟨0, 2⟩, ovfWidth := 1 }).setCh .c0 { idleChan with ovf := 1 });
      canTake s .c0 .rxc ∧ (s.hal.get .c0).rdr = some 1 ∧ (s.ch.get .c0).cb = none ∧
      (s.rx.get .c0).cap ≤ (s.rx.get .c0).len ∧ 2 ^ s.cfg.ovfWidth - 1 ≤ (s.ch.get .c0).ovf ∧
      s.cfg.ovfAtMax = .saturate) := by
  unfold canTake; decide

/-- Such a state is of no run (R257). -/
theorem test_witness_ReadOfAnEmptyRdrFaults :
    let s := s0.setHal .c0 { idleDevice with rxcPend := true }
    canTake s .c0 .rxc ∧ (s.hal.get .c0).rdr = none := by
  unfold canTake; decide

theorem test_witness_HandlersLeaveTheCallContextAlone :
    ∃ t, exec .txc0 (busy (.sendb 0 9) 1 none (transmitter none none true (flags false false s0))) = .next t :=
  let ⟨t, h, _⟩ := next_of_after (p := fun _ => true)
    (o := exec .txc0 (busy (.sendb 0 9) 1 none (transmitter none none true (flags false false s0)))) (by decide)
  ⟨t, h⟩

theorem test_witness_MoveLoadsTheShiftRegister :
    let s := offered [.move .c0] [] (transmitter (some 1) none false s0)
    s.faults = none ∧ s.sched = .move .c0 :: [] ∧ (s.hal.get .c0).tdr = some 1 ∧ (s.hal.get .c0).tsr = none := by decide

theorem test_witness_ShiftPutsTheByteOnTheLine :
    (let s := offered [.shift .c0] [] (transmitter none (some 2) false s0);
      s.faults = none ∧ s.sched = .shift .c0 :: [] ∧ (s.hal.get .c0).tsr = some 2 ∧ (s.hal.get .c0).tdr = none) ∧
    (let s := offered [.shift .c0] [] (transmitter (some 1) (some 2) false s0);
      s.faults = none ∧ s.sched = .shift .c0 :: [] ∧ (s.hal.get .c0).tsr = some 2 ∧ (s.hal.get .c0).tdr ≠ none) := by
  decide

theorem test_witness_ArrivalFillsTheRdrOrIsLost :
    (let s := offered [.arrive .c0 7] [] s0;
      s.faults = none ∧ s.sched = .arrive .c0 7 :: [] ∧ (s.hal.get .c0).rdr = none) ∧
    (let s := offered [.arrive .c0 7] [] (received 6 s0);
      s.faults = none ∧ s.sched = .arrive .c0 7 :: [] ∧ (s.hal.get .c0).rdr ≠ none) := by decide

theorem test_witness_InjectionsAreOfTheFreeModel :
    (let s := offered [.injTxc .c0] [] (stateI0 cfgFree);
      s.faults = none ∧ s.sched = .injTxc .c0 :: [] ∧ s.cfg.envModel = .free) ∧
    (let s := offered [.injRx .c0 7] [] (stateI0 cfgFree);
      s.faults = none ∧ s.sched = .injRx .c0 7 :: [] ∧ s.cfg.envModel = .free) := by decide

/-- A SENDB that holds on a full TDR; a vector not enabled; MOVE with no byte; an injection in the reference model. -/
theorem test_witness_ChoicesThatAreNotEnabledPass :
    (let s := offered [.call] [] (busy (.sendb 0 9) 0 none (transmitter (some 1) none false (flags false false s0)));
      MachineInv s ∧ s.faults = none ∧ enabled .call s = false) ∧
    MachineInv s0 ∧ s0.faults = none ∧
    (enabled (.event 1) s0 = false ∧ enabled (.move .c0) s0 = false ∧ enabled (.injTxc .c0) s0 = false) :=
  ⟨⟨machineInv_intro (by decide) (by unfold ChannelInv; decide) (by unfold ChannelInv; decide) (by decide), by decide,
    by decide⟩,
   machineInv_intro (by decide) (by unfold ChannelInv; decide) (by unfold ChannelInv; decide) (by decide), by decide,
   by decide⟩

/-- A wrapped ring with room, a full ring, a ring of capacity 0. -/
theorem test_witness_PushAndPopWorkTheQueue :
    (let r : Ring := ⟨4, 3, 1, 2, [(0, 0x20), (3, 0x10)]⟩;
      r.wf ∧ r.len < r.cap ∧ r.len ≠ 0) ∧
    (let r : Ring := ⟨2, 1, 1, 2, [(0, 1), (1, 2)]⟩;
      r.wf ∧ r.len = r.cap) ∧
    (let r : Ring := ⟨0, 0, 0, 0, []⟩;
      r.wf ∧ r.len = r.cap) := by decide

theorem test_witness_RingIsFirstInFirstOut :
    (⟨2, 0, 1, 1, [(0, 1)]⟩ : Ring).wf ∧
    (ringRun 0 [.push 2, .push 3, .pop] ⟨2, 0, 1, 1, [(0, 1)]⟩).isSome = true := by decide

theorem test_reset_inv : MachineInv State.reset :=
  machineInv_intro (by decide) (by unfold ChannelInv; decide) (by unfold ChannelInv; decide) (by decide)

/-- INIT 0 at reset, and a SENDBLK in progress at its pop. -/
theorem test_witness_EveryStepKeepsTheInvariant :
    MachineInv (offered [.call] [⟨0x10000000, []⟩] State.reset) ∧
    MachineInv (offered [.call] [] ((queued [5] (flags true true s0)).setCc (.busy (.sendblk 0 [5]) 3 ⟨none, 1⟩))) ∧
    after (step (offered [.call] [⟨0x10000000, []⟩] State.reset)) (fun _ => true) = true ∧
    after (step (offered [.call] [] ((queued [5] (flags true true s0)).setCc (.busy (.sendblk 0 [5]) 3 ⟨none, 1⟩))))
      (fun _ => true) = true :=
  ⟨machineInv_intro (by decide) (by unfold ChannelInv; decide) (by unfold ChannelInv; decide) (by decide),
   machineInv_intro (by decide) (by unfold ChannelInv; decide) (by unfold ChannelInv; decide) (by decide),
   by decide, by decide⟩

theorem test_witness_TheInvariantsHoldAtReset : cfgK.wf ∧ { cfgFree with ovfWidth := 28, capTx := ⟨0, 0⟩ }.wf := by decide

/-- An ARMED channel inside its STARTBUF, which a handler interrupts; and a command boundary. -/
theorem test_witness_NeverArmedAtACommandBoundary :
    (let s := offered [.event 1] [] (busy (.startbuf 0) 1 none (transmitter none none true (flags true true s0)));
      ArmedInv s ∧ handshake (s.ch.get .c0) = .armed ∧ after (step s) (fun _ => true) = true) ∧
    (ArmedInv s0 ∧ s0.cc = .idle ∧ (s0.ch.get .c0).ready = true) :=
  ⟨⟨fun c => by cases c <;> decide, by decide, by decide⟩, fun c => by cases c <;> decide, by decide, by decide⟩

theorem test_witness_EagerStepsKeepReadyMeaningQuiet :
    let s := offered [.shift .c0] [] (transmitter none (some 1) false (flags false false s0))
    s.cfg.envModel = .reference ∧ EagerInv s ∧ (∀ x rest, s.sched = x :: rest → eagerChoice x s = true) ∧
    after (step s) (fun _ => true) = true := by
  refine ⟨by decide, fun c => ?_, fun x rest h => ?_, by decide⟩
  · cases c <;> decide
  · cases h; decide

/-- A facade write from IDLE; STARTBUF's issue from SINGLE; the transmit engine from SINGLE. -/
theorem test_witness_HandshakeMovesOnlyAlongItsTable :
    (let s := offered [.call] [] (busy (.sendb 0 1) 1 none s0);
      MachineInv s ∧ (s.ch.get .c0).init = true ∧ after (step s) (fun t => decide (handshake (t.ch.get .c0) = .single)) = true) ∧
    (let s := offered [.call] [⟨0x70000000, []⟩] (queued [1] (flags false false s0));
      MachineInv s ∧ (s.ch.get .c0).init = true ∧ after (step s) (fun t => decide (handshake (t.ch.get .c0) = .buffered)) = true) ∧
    (let s := offered [.event 1] [] (transmitter none none true (flags false false s0));
      MachineInv s ∧ (s.ch.get .c0).init = true ∧ after (step s) (fun t => decide (handshake (t.ch.get .c0) = .idle)) = true) :=
  ⟨⟨machineInv_intro (by decide) (by unfold ChannelInv; decide) (by unfold ChannelInv; decide) (by decide), by decide, by decide⟩,
   ⟨machineInv_intro (by decide) (by unfold ChannelInv; decide) (by unfold ChannelInv; decide) (by decide), by decide, by decide⟩,
   ⟨machineInv_intro (by decide) (by unfold ChannelInv; decide) (by unfold ChannelInv; decide) (by decide), by decide, by decide⟩⟩

/-- The states of the five causes, TDR_OVERRUN from both writers; RDR_EMPTY has none in a state of the invariant. -/
theorem test_witness_FaultsAreRecordedOnlyForTheirCause :
    let empty := offered [.call] [] (busy (.startbuf 0) 1 none (flags true true s0))
    let uninit := offered [.call] [⟨0x81000000, []⟩] s0
    let again := offered [.call] [⟨0x10000000, []⟩] s0
    let baud := offered [.call] [⟨0x30002580, []⟩] (flags false false s0)
    let full := offered [.call] [] (busy (.sendb 0 1) 1 none (transmitter (some 2) none false s0))
    let engine := offered [.event 1] [] (queued [1] (transmitter (some 2) none true (flags false true s0)))
    (MachineInv empty ∧ after (step empty) (fun t => decide (t.faults = some .popEmpty)) = true) ∧
    (MachineInv uninit ∧ after (step uninit) (fun t => decide (t.faults = some .uninit)) = true) ∧
    (MachineInv again ∧ after (step again) (fun t => decide (t.faults = some .reinit)) = true) ∧
    (MachineInv baud ∧ after (step baud) (fun t => decide (t.faults = some .baudInFlight)) = true) ∧
    (MachineInv full ∧ after (step full) (fun t => decide (t.faults = some .tdrOverrun)) = true) ∧
    (MachineInv engine ∧ after (step engine) (fun t => decide (t.faults = some .tdrOverrun)) = true) :=
  ⟨⟨machineInv_intro (by decide) (by unfold ChannelInv; decide) (by unfold ChannelInv; decide) (by decide), by decide⟩,
   ⟨machineInv_intro (by decide) (by unfold ChannelInv; decide) (by unfold ChannelInv; decide) (by decide), by decide⟩,
   ⟨machineInv_intro (by decide) (by unfold ChannelInv; decide) (by unfold ChannelInv; decide) (by decide), by decide⟩,
   ⟨machineInv_intro (by decide) (by unfold ChannelInv; decide) (by unfold ChannelInv; decide) (by decide), by decide⟩,
   ⟨machineInv_intro (by decide) (by unfold ChannelInv; decide) (by unfold ChannelInv; decide) (by decide), by decide⟩,
   ⟨machineInv_intro (by decide) (by unfold ChannelInv; decide) (by unfold ChannelInv; decide) (by decide), by decide⟩⟩

/-- With no fault, and with one. -/
theorem test_witness_TheMachineStopsOnlyOnARecordedFault :
    MachineInv s0 ∧ MachineInv { s0 with faults := some .reinit } :=
  ⟨machineInv_intro (by decide) (by unfold ChannelInv; decide) (by unfold ChannelInv; decide) (by decide),
   machineInv_intro (by decide) (by unfold ChannelInv; decide) (by unfold ChannelInv; decide) (by decide)⟩

theorem test_witness_ParametersStayAndTheTraceGrows :
    after (step (offered [.shift .c0] [] (transmitter none (some 1) false s0)))
      (fun t => decide (t.trace.length = s0.trace.length + 1)) = true := by decide

theorem test_witness_ChannelsDoNotInterfere :
    instrChan (.recv 1) = some .c1 ∧ instrChan .txc0 = some .c0 ∧ deviceChan (.arrive .c1 7) = some .c1 := by decide

/-- BUFFERED with two bytes queued, free device model; 0 events, all the bytes, and one event more. -/
theorem test_witness_TransmitEventsDrainTheRingInOrder :
    let s := queued [1, 2] (flags false true (stateI0 cfgFree))
    (s.cfg.envModel = .free ∧ s.faults = none ∧ s.refused = false ∧ (s.ch.get .c0).init = true ∧
      (s.hal.get .c0).txie = true ∧ (s.tx.get .c0).wf ∧ handshake (s.ch.get .c0) = .buffered ∧
      (s.tx.get .c0).queue = [(1 : Byte), 2].map some) ∧
    0 ≤ [(1 : Byte), 2].length ∧ 2 ≤ [(1 : Byte), 2].length ∧ [(1 : Byte), 2].length < 3 := by decide

/-- Program P1 after its step 2. -/
theorem test_witness_BufferedTransferReachesTheLineInOrder :
    let s := queued [0x69, 0x21] (transmitter (some 0x48) none false (flags false true s0))
    s.faults = none ∧ s.refused = false ∧ (s.ch.get .c0).init = true ∧ (s.hal.get .c0).txie = true ∧
    (s.tx.get .c0).wf ∧ handshake (s.ch.get .c0) = .buffered ∧
    (s.tx.get .c0).queue = [(0x69 : Byte), 0x21].map some ∧ (s.hal.get .c0).tdr = some 0x48 ∧
    (s.hal.get .c0).tsr = none := by decide

/-- Program P2 after its step 3: the ring is full. -/
theorem test_witness_ArrivalsAreBufferedInOrderThenCounted :
    let s := stateP2 none
    s.faults = none ∧ s.refused = false ∧ (s.ch.get .c1).init = true ∧ (s.hal.get .c1).rxie = true ∧
    (s.rx.get .c1).wf ∧ (s.ch.get .c1).cb = none ∧ (s.hal.get .c1).rdr = none := by decide

/-- A SENDB that holds on a full TDR, where the machine is not at an end because MOVE is enabled. -/
theorem test_witness_TheMachineIsNeverStuck :
    let s := busy (.sendb 0 2) 0 none (transmitter (some 1) none false (flags false false s0))
    s.faults = none ∧ s.refused = false ∧ holding s = true ∧ goodEnd s = false := by decide

/-- A run that sends a byte waiting in the TDR and then has nothing left to do; the host has a command it never issues. -/
def runStates : Nat → State
  | 0     => offered [] [⟨0x80000000, []⟩] (transmitter (some 1) none false (flags false false s0))
  | 1     => offered [] [⟨0x80000000, []⟩] (transmitter none (some 1) false (flags false false s0))
  | 2     => offered [] [⟨0x80000000, []⟩] ((transmitter none none true (flags false false s0)).emit (.line .c0 1))
  | _ + 3 => offered [] [⟨0x80000000, []⟩] (s0.emit (.line .c0 1))

/-- What that run takes. -/
def runPicks : Nat → Choice
  | 0     => .move .c0
  | 1     => .shift .c0
  | 2     => .event 1
  | _ + 3 => .move .c1

theorem test_nothing_owed_at_the_end (x : Choice) : owed x (runStates 3) = false := by
  cases x with
  | event ev => revert ev; decide
  | move c => cases c <;> decide
  | shift c => cases c <;> decide
  | call => decide
  | _ => rfl

theorem test_witness_AFairRunEmptiesTheTdr :
    Run runStates runPicks ∧ WeaklyFair runStates runPicks ∧ (∀ n, (runStates n).faults = none) ∧
    ((runStates 0).hal.get .c0).tdr ≠ none ∧ ∀ n, enabled .call (runStates (n + 3)) = true := by
  refine ⟨fun n => ?_, fun x n h => ?_, fun n => ?_, by decide, fun n => ?_⟩
  · match n with
    | 0     => rfl
    | 1     => rfl
    | 2     => rfl
    | _ + 3 => rfl
  · have := h (n + 3) (by omega)
    rw [show runStates (n + 3) = runStates 3 from rfl, test_nothing_owed_at_the_end x] at this
    cases this
  · match n with
    | 0     => rfl
    | 1     => rfl
    | 2     => rfl
    | _ + 3 => rfl
  · show enabled .call (runStates 3) = true
    decide

end Sys2Proof.Tests
end

section
/-! PROOFS of O54 and O55. Both follow from one walk over the instructions and the device steps: a relation between
two states that an agent of channel `c` cannot tell apart, and that the updates it makes keep, is kept by its
transitions. O55 is the case "the same state but for the other channel"; O54 is the case of a state related to itself
while its parameters and an initial part of its trace stand. -/

namespace Sys2Proof.Machine

/-! ### What an agent of one channel reads and writes -/

/-- The two states agree on everything an instruction or a device step of channel `c` reads. -/
structure AgreeOn (c : Chan) (s s' : State) : Prop where
  cfg     : s'.cfg = s.cfg
  ch      : s'.ch.get c = s.ch.get c
  tx      : s'.tx.get c = s.tx.get c
  rx      : s'.rx.get c = s.rx.get c
  hal     : s'.hal.get c = s.hal.get c
  cc      : s'.cc = s.cc
  faults  : s'.faults = s.faults
  refused : s'.refused = s.refused
  draws   : s'.draws = s.draws

/-- Related states agree on what channel `c` reads, and every update an agent of `c` makes, made on both, keeps them
related. -/
structure ChannelRelation (c : Chan) (R : State → State → Prop) : Prop where
  agree     : ∀ {s s'}, R s s' → AgreeOn c s s'
  setCh     : ∀ {s s'} (x : ChanState), R s s' → R (s.setCh c x) (s'.setCh c x)
  setTx     : ∀ {s s'} (r : Ring), R s s' → R (s.setTx c r) (s'.setTx c r)
  setRx     : ∀ {s s'} (r : Ring), R s s' → R (s.setRx c r) (s'.setRx c r)
  setHal    : ∀ {s s'} (d : Device), R s s' → R (s.setHal c d) (s'.setHal c d)
  setCc     : ∀ {s s'} (p : Progress), R s s' → R (s.setCc p) (s'.setCc p)
  drawn     : ∀ {s s'} (n : Nat), R s s' → R (s.drawn n) (s'.drawn n)
  emit      : ∀ {s s'} (e : Event), R s s' → R (s.emit e) (s'.emit e)
  refuse    : ∀ {s s'}, R s s' → R s.refuse s'.refuse
  takeFault : ∀ {s s' t t'} (f : Fault), R s s' → R t t' → R (s.takeFault f t.trace) (s'.takeFault f t'.trace)

/-- Related computations: both complete with results related by `Q`, both raise the same fault at related states, or
both are refused alike. -/
inductive EffectRel {α : Type} (R : State → State → Prop) (Q : α → α → Prop) : Effect α → Effect α → Prop where
  | ok {a a' : α} (h : Q a a') : EffectRel R Q (.ok a) (.ok a')
  | raised {t t' : State} (f : Fault) (h : R t t') : EffectRel R Q (raise f t) (raise f t')
  | refused (r : Refusal) : EffectRel R Q (.error (.refuse r)) (.error (.refuse r))

/-- Related outcomes: related next states, or the same fault or refusal. -/
inductive OutcomeRel (R : State → State → Prop) :
    Host.Outcome State Fault Refusal → Host.Outcome State Fault Refusal → Prop where
  | next {t t' : State} (h : R t t') : OutcomeRel R (.next t) (.next t')
  | fault (f : Fault) : OutcomeRel R (.fault f) (.fault f)
  | refused (r : Refusal) : OutcomeRel R (.refused r) (.refused r)

/-- A byte read together with the state after the read: the same byte, and related states. -/
def ByteRel (R : State → State → Prop) (x x' : Byte × State) : Prop := x'.1 = x.1 ∧ R x.2 x'.2

theorem EffectRel.map {α β : Type} {R : State → State → Prop} {Q : α → α → Prop} {P : β → β → Prop} {f f' : α → β}
    {e e' : Effect α} (h : EffectRel R Q e e') (hf : ∀ {a a'}, Q a a' → P (f a) (f' a')) :
    EffectRel R P (e.map f) (e'.map f') := by
  cases h with
  | ok h => exact .ok (hf h)
  | raised f h => exact .raised f h
  | refused r => exact .refused r

namespace ChannelRelation

variable {c : Chan} {R : State → State → Prop} (hR : ChannelRelation c R) {s s' : State}
include hR

theorem settle {e e' : Effect State} (hs : R s s') (he : EffectRel R R e e') :
    OutcomeRel R (settle s e) (settle s' e') := by
  cases he with
  | ok h => exact .next h
  | raised f h => exact .next (hR.takeFault f hs h)
  | refused r => exact .refused r

/-! ### The shared operations -/

theorem respond (st : Status) (v : BitVec 28) (hs : R s s') : R (s.respond st v) (s'.respond st v) :=
  hR.setCc _ (hR.emit _ hs)

theorem advance (hs : R s s') : R s.advance s'.advance := by
  unfold State.advance
  rw [(hR.agree hs).cc]
  split
  · exact hs
  · exact hR.setCc _ hs

theorem setLocals (L : Locals) (hs : R s s') : R (s.setLocals L) (s'.setLocals L) := by
  unfold State.setLocals
  rw [(hR.agree hs).cc]
  split
  · exact hs
  · exact hR.setCc _ hs

theorem modifyCh (f : ChanState → ChanState) (hs : R s s') :
    R (s.setCh c (f (s.ch.get c))) (s'.setCh c (f (s'.ch.get c))) := by
  rw [(hR.agree hs).ch]
  exact hR.setCh _ hs

theorem modifyTx (f : Ring → Ring) (hs : R s s') :
    R (s.setTx c (f (s.tx.get c))) (s'.setTx c (f (s'.tx.get c))) := by
  rw [(hR.agree hs).tx]
  exact hR.setTx _ hs

theorem modifyRx (f : Ring → Ring) (hs : R s s') :
    R (s.setRx c (f (s.rx.get c))) (s'.setRx c (f (s'.rx.get c))) := by
  rw [(hR.agree hs).rx]
  exact hR.setRx _ hs

theorem modifyHal (f : Device → Device) (hs : R s s') :
    R (s.setHal c (f (s.hal.get c))) (s'.setHal c (f (s'.hal.get c))) := by
  rw [(hR.agree hs).hal]
  exact hR.setHal _ hs

theorem pushTx (b : Byte) (hs : R s s') : R (pushTx c b s) (pushTx c b s') :=
  hR.modifyTx (fun r => (r.pushBack b).2) hs

theorem popTx (hs : R s s') : EffectRel R (ByteRel R) (popTx c s) (popTx c s') := by
  unfold Machine.popTx
  rw [(hR.agree hs).tx, (hR.agree hs).draws]
  split
  · exact .raised _ hs
  · exact .ok ⟨rfl, hR.drawn _ (hR.setTx _ hs)⟩

theorem popRx (hs : R s s') : EffectRel R (ByteRel R) (popRx c s) (popRx c s') := by
  unfold Machine.popRx
  rw [(hR.agree hs).rx, (hR.agree hs).draws]
  split
  · exact .raised _ hs
  · exact .ok ⟨rfl, hR.drawn _ (hR.setRx _ hs)⟩

theorem clearTxcPend (hs : R s s') : R (clearTxcPend c s) (clearTxcPend c s') :=
  hR.modifyHal (fun d => { d with txcPend := false }) hs

theorem halSetBaud (rate : Nat) (hs : R s s') : R (halSetBaud c rate s) (halSetBaud c rate s') :=
  hR.emit _ (hR.modifyHal (fun d => { d with baud := rate }) hs)

theorem halWriteTdr (b : Byte) (who : Who) (hs : R s s') :
    EffectRel R R (halWriteTdr c b who s) (halWriteTdr c b who s') := by
  unfold Machine.halWriteTdr
  rw [(hR.agree hs).cfg, (hR.agree hs).hal]
  split
  · exact .raised _ hs
  · exact .ok (hR.emit _ (hR.setHal _ hs))

theorem halReadRdr (hs : R s s') : EffectRel R (ByteRel R) (halReadRdr c s) (halReadRdr c s') := by
  unfold Machine.halReadRdr
  rw [(hR.agree hs).hal]
  split
  · exact .raised _ hs
  · exact .ok ⟨rfl, hR.setHal _ hs⟩

/-! ### The micro-steps of the commands -/

theorem initStep (hs : R s s') : EffectRel R R (initStep c s) (initStep c s') := by
  unfold Machine.initStep
  rw [(hR.agree hs).cfg, (hR.agree hs).ch]
  split
  · exact .raised _ hs
  · exact .ok (hR.respond _ _ (hR.modifyHal (fun d => { d with txie := true, rxie := true })
      (hR.halSetBaud _ (hR.setCh _ (hR.setRx _ (hR.setTx _ hs))))))

theorem setcbStep (cb : Option Token) (hs : R s s') : EffectRel R R (setcbStep cb c s) (setcbStep cb c s') :=
  .ok (hR.respond _ _ (hR.modifyCh (fun x => { x with cb := cb }) hs))

theorem setbaudStep (rate : Rate) (hs : R s s') : EffectRel R R (setbaudStep rate c s) (setbaudStep rate c s') := by
  unfold Machine.setbaudStep
  rw [(hR.agree hs).ch]
  split
  · exact .raised _ hs
  · exact .ok (hR.respond _ _ (hR.halSetBaud _ hs))

theorem enqbStep (b : Byte) (hs : R s s') : EffectRel R R (enqbStep b c s) (enqbStep b c s') :=
  .ok (hR.respond _ _ (hR.pushTx b hs))

theorem recvStep (hs : R s s') : EffectRel R R (recvStep c s) (recvStep c s') := by
  unfold Machine.recvStep
  rw [(hR.agree hs).rx]
  split
  · refine (hR.popRx hs).map ?_
    rintro ⟨b, t⟩ ⟨_, t'⟩ ⟨rfl, ht⟩
    exact hR.respond _ _ ht
  · exact .ok (hR.respond _ _ hs)

theorem flushrxStep (hs : R s s') : EffectRel R R (flushrxStep c s) (flushrxStep c s') :=
  .ok (hR.respond _ _ (hR.modifyRx Ring.flush hs))

theorem rxemptyStep (hs : R s s') : EffectRel R R (rxemptyStep c s) (rxemptyStep c s') := by
  unfold Machine.rxemptyStep rxEmpty
  rw [(hR.agree hs).rx]
  exact .ok (hR.respond _ _ hs)

theorem txpendStep (hs : R s s') : EffectRel R R (txpendStep c s) (txpendStep c s') := by
  unfold Machine.txpendStep txPending
  rw [(hR.agree hs).ch]
  exact .ok (hR.respond _ _ hs)

theorem ovfcntStep (hs : R s s') : EffectRel R R (ovfcntStep c s) (ovfcntStep c s') := by
  unfold Machine.ovfcntStep
  rw [(hR.agree hs).ch]
  exact .ok (hR.respond _ _ hs)

theorem hold (hs : R s s') : R (hold c s) (hold c s') := by
  unfold Machine.hold halTdrEmpty
  rw [(hR.agree hs).hal]
  split
  · exact hR.advance hs
  · exact hs

theorem writeAndRespond (b : Byte) (hs : R s s') :
    EffectRel R R (writeAndRespond c b s) (writeAndRespond c b s') :=
  ((hR.halWriteTdr b .facade hs).map (hR.modifyCh fun x => { x with ready := false })).map (hR.respond _ _)

theorem sendbSteps (b : Byte) (k : Nat) (L : Locals) (hs : R s s') :
    EffectRel R R (sendbSteps b c k L s) (sendbSteps b c k L s') := by
  match k with
  | 0     => exact .ok (hR.hold hs)
  | 1     => exact hR.writeAndRespond b hs
  | _ + 2 => exact .refused _

theorem popForSending (L : Locals) (hs : R s s') : EffectRel R R (popForSending c L s) (popForSending c L s') := by
  refine (hR.popTx hs).map ?_
  rintro ⟨b, t⟩ ⟨_, t'⟩ ⟨rfl, ht⟩
  exact hR.advance (hR.setLocals _ ht)

theorem startSending (j : Nat) (L : Locals) (hs : R s s') :
    EffectRel R R (startSending c j L s) (startSending c j L s') := by
  match j with
  | 0 => exact .ok (hR.advance (hR.modifyCh (fun x => { x with active := true }) hs))
  | 1 => exact hR.popForSending L hs
  | 2 => exact .ok (hR.hold hs)
  | 3 =>
    simp only [Machine.startSending]
    split
    · exact .refused _
    · exact hR.writeAndRespond _ hs
  | _ + 4 => exact .refused _

theorem sendblkCheck (p : List Byte) (L : Locals) (hs : R s s') :
    EffectRel R R (sendblkCheck p c L s) (sendblkCheck p c L s') := by
  unfold Machine.sendblkCheck
  rw [(hR.agree hs).tx]
  split
  · exact .ok (hR.advance (hR.setLocals _ hs))
  · exact .ok (hR.respond _ _ hs)

theorem sendblkPush (p : List Byte) (L : Locals) (hs : R s s') :
    EffectRel R R (sendblkPush p c L s) (sendblkPush p c L s') := by
  unfold Machine.sendblkPush
  split
  · exact .refused _
  · exact .ok (hR.advance (hR.setLocals _ (hR.pushTx _ hs)))

theorem sendblkSteps (p : List Byte) (k : Nat) (L : Locals) (hs : R s s') :
    EffectRel R R (sendblkSteps p c k L s) (sendblkSteps p c k L s') := by
  unfold Machine.sendblkSteps
  split
  · exact hR.sendblkCheck p L hs
  · split
    · exact hR.sendblkPush p L hs
    · exact hR.startSending _ L hs

/-! ### The handlers -/

theorem txcHandler (hs : R s s') : EffectRel R R (txcHandler c s) (txcHandler c s') := by
  have hclear := hR.clearTxcPend hs
  have hdone := hR.modifyCh (fun x => { x with ready := true, active := false }) hclear
  unfold Machine.txcHandler
  rw [(hR.agree hs).ch, (hR.agree hs).tx]
  split
  · exact .raised _ hs
  · split
    · split
      · have hpop := hR.popTx hclear
        generalize Machine.popTx c _ = e at hpop ⊢
        generalize Machine.popTx c _ = e' at hpop ⊢
        cases hpop with
        | @ok x x' h =>
          obtain ⟨hb, ht⟩ := h
          simp only [hb]
          exact hR.halWriteTdr x.1 .engine ht
        | raised f h => exact .raised f h
        | refused r => exact .refused r
      · exact .ok hdone
    · exact .ok hdone

theorem bufferOrCount (b : Byte) (hs : R s s') : R (bufferOrCount c b s) (bufferOrCount c b s') := by
  have hpush := hR.modifyRx (fun r => (r.pushBack b).2) hs
  unfold Machine.bufferOrCount pushRx
  rw [(hR.agree hs).rx] at hpush ⊢
  cases ((s.rx.get c).pushBack b).1 with
  | true => exact hpush
  | false =>
    simp only [(hR.agree hpush).ch, (hR.agree hpush).cfg]
    exact hR.setCh _ hpush

theorem rxcHandler (hs : R s s') : EffectRel R R (rxcHandler c s) (rxcHandler c s') := by
  have hread := hR.halReadRdr hs
  unfold Machine.rxcHandler
  generalize Machine.halReadRdr c s = e at hread ⊢
  generalize Machine.halReadRdr c s' = e' at hread ⊢
  cases hread with
  | @ok x x' h =>
    obtain ⟨hb, ht⟩ := h
    simp only [hb, (hR.agree ht).ch]
    split
    · exact .raised _ ht
    · split
      · exact .ok (hR.emit _ ht)
      · exact .ok (hR.bufferOrCount _ ht)
  | raised f h => exact .raised f h
  | refused r => exact .refused r

/-! ### The two frames, and every instruction -/

theorem runCommand {i : Instr} {sel : Sel} {needsInit : Bool}
    {body : Chan → Nat → Locals → State → Effect State} (hsel : ∀ d, selChan sel = some d → d = c)
    (hbody : ∀ {t t'} k L, R t t' → EffectRel R R (body c k L t) (body c k L t')) (hs : R s s') :
    OutcomeRel R (runCommand i sel needsInit body s) (runCommand i sel needsInit body s') := by
  unfold Machine.runCommand
  rw [(hR.agree hs).faults, (hR.agree hs).cc]
  split
  · exact .fault _
  · split
    · exact .refused _
    · split
      · exact .next (hR.respond _ _ hs)
      · rename_i d hd
        obtain rfl := hsel d hd
        rw [(hR.agree hs).ch]
        split
        · exact hR.settle hs (.raised _ hs)
        · exact hR.settle hs (hbody _ _ (hR.setCc _ hs))

theorem runOneStep {i : Instr} {sel : Sel} {needsInit : Bool} {k0 : Chan → State → Effect State}
    (hsel : ∀ d, selChan sel = some d → d = c) (hk0 : ∀ {t t'}, R t t' → EffectRel R R (k0 c t) (k0 c t'))
    (hs : R s s') :
    OutcomeRel R (Machine.runCommand i sel needsInit (oneStep k0) s)
      (Machine.runCommand i sel needsInit (oneStep k0) s') := by
  refine hR.runCommand hsel (fun k L ht => ?_) hs
  cases k with
  | zero => exact hk0 ht
  | succ k => exact .refused _

theorem takeEvent {kind : Kind} {handler : State → Effect State}
    (hh : EffectRel R R (handler s) (handler s')) (hs : R s s') :
    OutcomeRel R (takeEvent c kind handler s) (takeEvent c kind handler s') := by
  unfold Machine.takeEvent handlerEnabled
  rw [(hR.agree hs).faults, (hR.agree hs).hal, (hR.agree hs).refused, map_returnFromHandler, map_returnFromHandler]
  split
  · exact .fault _
  · split
    · exact hR.settle hs hh
    · exact .refused _

theorem execReserved (w : Word) (hs : R s s') : OutcomeRel R (execReserved w s) (execReserved w s') := by
  unfold Machine.execReserved
  rw [(hR.agree hs).faults, (hR.agree hs).cc]
  split
  · exact .fault _
  · split
    · exact .refused _
    · exact .next (hR.respond _ _ hs)

/-- An instruction that works on no channel but `c` keeps the relation. -/
theorem exec {i : Instr} (hi : ∀ d, instrChan i = some d → d = c) (hs : R s s') :
    OutcomeRel R (exec i s) (exec i s') := by
  cases i with
  | init ch         => exact hR.runOneStep hi hR.initStep hs
  | setcb ch cb     => exact hR.runOneStep hi (hR.setcbStep cb) hs
  | setbaud ch rate => exact hR.runOneStep hi (hR.setbaudStep rate) hs
  | sendb ch b      => exact hR.runCommand hi (hR.sendbSteps b) hs
  | enqb ch b       => exact hR.runOneStep hi (hR.enqbStep b) hs
  | sendblk ch p    => exact hR.runCommand hi (hR.sendblkSteps p) hs
  | startbuf ch     => exact hR.runCommand hi hR.startSending hs
  | recv ch         => exact hR.runOneStep hi hR.recvStep hs
  | flushrx ch      => exact hR.runOneStep hi hR.flushrxStep hs
  | rxempty ch      => exact hR.runOneStep hi hR.rxemptyStep hs
  | txpend ch       => exact hR.runOneStep hi hR.txpendStep hs
  | ovfcnt ch       => exact hR.runOneStep hi hR.ovfcntStep hs
  | rxc0            => obtain rfl := hi _ rfl; exact hR.takeEvent (hR.rxcHandler hs) hs
  | txc0            => obtain rfl := hi _ rfl; exact hR.takeEvent (hR.txcHandler hs) hs
  | rxc1            => obtain rfl := hi _ rfl; exact hR.takeEvent (hR.rxcHandler hs) hs
  | txc1            => obtain rfl := hi _ rfl; exact hR.takeEvent (hR.txcHandler hs) hs
  | reserved w      => exact hR.execReserved w hs

/-! ### The device steps -/

theorem moveStep (hs : R s s') : Option.Rel R (moveStep c s) (moveStep c s') := by
  unfold Machine.moveStep
  rw [(hR.agree hs).hal]
  split
  · exact .some (hR.setHal _ hs)
  · exact .none

theorem shiftStep (hs : R s s') : Option.Rel R (shiftStep c s) (shiftStep c s') := by
  unfold Machine.shiftStep
  rw [(hR.agree hs).hal]
  split
  · exact .none
  · exact .some (hR.emit _ (hR.setHal _ hs))

theorem arriveStep (b : Byte) (hs : R s s') : R (arriveStep c b s) (arriveStep c b s') := by
  unfold Machine.arriveStep
  rw [(hR.agree hs).hal]
  split
  · exact hR.setHal _ hs
  · exact hR.setHal _ hs

theorem injTxcStep (hs : R s s') : Option.Rel R (injTxcStep c s) (injTxcStep c s') := by
  unfold Machine.injTxcStep
  rw [(hR.agree hs).cfg]
  split
  · exact .none
  · exact .some (hR.modifyHal (fun d => { d with txcPend := true }) hs)

theorem injRxStep (b : Byte) (hs : R s s') : Option.Rel R (injRxStep c b s) (injRxStep c b s') := by
  unfold Machine.injRxStep
  rw [(hR.agree hs).cfg]
  split
  · exact .none
  · exact .some (hR.modifyHal (fun d => { d with rdr := some b, rxcPend := true }) hs)

/-- A device step of no channel but `c`, or a refused request, keeps the relation. -/
theorem environmentStep {y : Choice} (hy : ∀ d, deviceChan y = some d → d = c) (hs : R s s') :
    Option.Rel R (environmentStep s y) (environmentStep s' y) := by
  cases y with
  | move d      => obtain rfl := hy d rfl; exact hR.moveStep hs
  | shift d     => obtain rfl := hy d rfl; exact hR.shiftStep hs
  | arrive d b  => obtain rfl := hy d rfl; exact .some (hR.arriveStep b hs)
  | injTxc d    => obtain rfl := hy d rfl; exact hR.injTxcStep hs
  | injRx d b   => obtain rfl := hy d rfl; exact hR.injRxStep b hs
  | forbidden x => exact .some (hR.refuse hs)
  | call        => exact .none
  | event ev    => exact .none
  | reset       => exact .none

end ChannelRelation

/-! ### O55: a state, related to what `withOther` makes of it -/

/-- An update of channel `c`'s record passes one of the other channel's. -/
theorem perChan_set_set_other {α : Type} (x : PerChan α) (c : Chan) (u v : α) :
    (x.set c v).set c.other u = (x.set c.other u).set c v := by cases c <;> rfl

theorem perChan_get_set_other {α : Type} (x : PerChan α) (c : Chan) (u : α) : (x.set c.other u).get c = x.get c :=
  PerChan.get_set_other _ _ (Chan.ne_other c)

/-- No agent of channel `c` can tell what the other channel holds, and none writes it. -/
theorem withOther_channelRelation (c : Chan) (x : State) : ChannelRelation c fun s s' => s' = withOther c x s where
  agree := by
    rintro s _ rfl
    exact ⟨rfl, perChan_get_set_other .., perChan_get_set_other .., perChan_get_set_other ..,
      perChan_get_set_other .., rfl, rfl, rfl, rfl⟩
  setCh := by rintro s _ v rfl; simp [withOther, State.setCh, perChan_set_set_other]
  setTx := by rintro s _ v rfl; simp [withOther, State.setTx, perChan_set_set_other]
  setRx := by rintro s _ v rfl; simp [withOther, State.setRx, perChan_set_set_other]
  setHal := by rintro s _ v rfl; simp [withOther, State.setHal, perChan_set_set_other]
  setCc := by rintro s _ p rfl; rfl
  drawn := by rintro s _ n rfl; rfl
  emit := by rintro s _ e rfl; rfl
  refuse := by rintro s _ rfl; rfl
  takeFault := by rintro s _ t _ f rfl rfl; rfl

theorem exec_withOther {i : Instr} {c : Chan} (s x : State) (hi : instrChan i = some c) :
    exec i (withOther c x s) = mapNext (withOther c x) (exec i s) := by
  have h := (withOther_channelRelation c x).exec (i := i) (fun _ hd => Option.some.inj (hd.symm.trans hi)) (s := s) rfl
  generalize exec i s = o at h ⊢
  generalize exec i (withOther c x s) = o' at h ⊢
  cases h with
  | next h => exact congrArg _ h
  | fault f => rfl
  | refused r => rfl

theorem environmentStep_withOther {y : Choice} {c : Chan} (s x : State) (hy : deviceChan y = some c) :
    environmentStep (withOther c x s) y = (environmentStep s y).map (withOther c x) := by
  have h := (withOther_channelRelation c x).environmentStep (y := y) (fun _ hd => Option.some.inj (hd.symm.trans hy))
    (s := s) rfl
  generalize environmentStep s y = o at h ⊢
  generalize environmentStep (withOther c x s) y = o' at h ⊢
  cases h with
  | some h => exact congrArg _ h
  | none => rfl

/-- Settles O55, from `ChannelRelation.exec` and `ChannelRelation.environmentStep`. -/
theorem channelsDoNotInterfere : Obligations.ChannelsDoNotInterfere :=
  ⟨fun _ _ s x hi => exec_withOther s x hi, fun _ _ s x hy => environmentStep_withOther s x hy⟩

/-! ### O54: a state, related to itself while it extends an earlier one -/

/-- `t` has the parameters of `s`, and the trace of `s` is an initial part of its trace (R9, R27). -/
def Extends (s t : State) : Prop := t.cfg = s.cfg ∧ s.trace <+: t.trace

theorem Extends.refl (s : State) : Extends s s := ⟨rfl, List.prefix_refl _⟩

/-- No update an agent makes writes the parameters or takes an event out of the trace. -/
theorem extends_channelRelation (s₀ : State) (c : Chan) : ChannelRelation c fun s s' => s' = s ∧ Extends s₀ s where
  agree := by rintro s _ ⟨rfl, -⟩; exact ⟨rfl, rfl, rfl, rfl, rfl, rfl, rfl, rfl, rfl⟩
  setCh := by rintro s _ x ⟨rfl, h⟩; exact ⟨rfl, h⟩
  setTx := by rintro s _ r ⟨rfl, h⟩; exact ⟨rfl, h⟩
  setRx := by rintro s _ r ⟨rfl, h⟩; exact ⟨rfl, h⟩
  setHal := by rintro s _ d ⟨rfl, h⟩; exact ⟨rfl, h⟩
  setCc := by rintro s _ p ⟨rfl, h⟩; exact ⟨rfl, h⟩
  drawn := by rintro s _ n ⟨rfl, h⟩; exact ⟨rfl, h⟩
  emit := by rintro s _ e ⟨rfl, hcfg, htr⟩; exact ⟨rfl, hcfg, htr.trans (List.prefix_append _ _)⟩
  refuse := by rintro s _ ⟨rfl, h⟩; exact ⟨rfl, h⟩
  takeFault := by rintro s _ t _ f ⟨rfl, hcfg, -⟩ ⟨rfl, -, htr⟩; exact ⟨rfl, hcfg, htr⟩

theorem exec_extends {i : Instr} {s t : State} (h : exec i s = .next t) : Extends s t := by
  have hrel := (extends_channelRelation s ((instrChan i).getD .c0)).exec (i := i)
    (fun d hd => by simp [hd]) ⟨rfl, Extends.refl s⟩
  rw [h] at hrel
  cases hrel with
  | next ht => exact ht.2

theorem environmentStep_extends {y : Choice} {s t : State} (h : environmentStep s y = some t) : Extends s t := by
  have hrel := (extends_channelRelation s ((deviceChan y).getD .c0)).environmentStep (y := y)
    (fun d hd => by simp [hd]) ⟨rfl, Extends.refl s⟩
  rw [h] at hrel
  cases hrel with
  | some ht => exact ht.2

/-- The call context finds its instruction without touching the parameters or the trace. -/
theorem fetchCall_run_cfg_trace {s u : State} {i : Instr} (h : fetchCall s = .run i u) :
    u.cfg = s.cfg ∧ u.trace = s.trace := by
  obtain ⟨_, _, _, rfl⟩ | ⟨_, _, _, _, _, rfl⟩ := fetchCall_run_cases h
  · exact ⟨rfl, rfl⟩
  · exact ⟨rfl, rfl⟩

theorem choiceStep_extends {x : Choice} {s t : State} (hx : x ≠ .reset) (h : choiceStep x s = .next t) :
    Extends s t := by
  obtain rfl | ⟨-, i, u, hu, ht⟩ | ⟨-, u, hu, rfl⟩ | ⟨ev, -, -, ht⟩ | ht := choiceStep_cases hx h
  · exact Extends.refl _
  · obtain ⟨hcfg, htr⟩ := fetchCall_run_cfg_trace hu
    have := exec_extends ht
    rwa [Extends, hcfg, htr] at this
  · obtain ⟨_, _, _, _, _, _, rfl⟩ := fetchCall_mismatched_cases hu
    exact Extends.refl s
  · exact exec_extends ht
  · exact environmentStep_extends ht

/-- Settles O54, over the three things a step can do (`step_cases`). -/
theorem parametersStayAndTheTraceGrows : Obligations.ParametersStayAndTheTraceGrows := by
  intro s t h
  obtain ⟨rest, -, rfl⟩ | ⟨-, -, rfl⟩ | ⟨-, x, rest, -, hx, ht⟩ := step_cases h
  · exact ⟨rfl, List.prefix_refl _⟩
  · exact Extends.refl _
  · exact (choiceStep_extends hx ht :)

end Sys2Proof.Machine
end

section
/-! PROOFS of O45. What a push and a pop do to the queue of a well-formed ring, and that the primitives keep the
ring's form (R30). -/

namespace Sys2Proof.Machine

namespace Ring

/-! ### The queue's cells -/

/-- The queued bytes of a well-formed ring stand in known cells (R31). -/
theorem wf.read_slot_isSome {r : Ring} (h : r.wf) {j : Nat} (hj : j < r.len) :
    (Memory.read r.store (r.slot j)).isSome = true := by
  obtain ⟨-, -, -, -, -, hqueue⟩ := h
  simp only [queue, List.all_map, List.all_eq_true, List.mem_range, Function.comp_apply] at hqueue
  exact hqueue j hj

/-- While there is room, the tail is the cell after the last queued byte. -/
theorem wf.slot_len {r : Ring} (h : r.wf) (hroom : r.len < r.cap) : r.slot r.len = r.tail := by
  obtain ⟨-, hidx, -⟩ := h
  obtain ⟨-, -, htail⟩ := hidx (by omega)
  exact htail.symm

/-- While there is room, no queued byte stands in the cell at the tail. -/
theorem wf.slot_ne_tail {r : Ring} (h : r.wf) (hroom : r.len < r.cap) {j : Nat} (hj : j < r.len) :
    r.slot j ≠ r.tail := by
  rw [← h.slot_len hroom]
  intro heq
  have hmod : j % r.cap = r.len % r.cap := Nat.ModEq.add_left_cancel' r.head heq
  rw [Nat.mod_eq_of_lt (by omega), Nat.mod_eq_of_lt hroom] at hmod
  omega

/-- The queue of a ring that is not empty: the byte at the head, then the bytes from the cell after it. -/
theorem queue_of_len_ne_zero (r : Ring) (h : r.len ≠ 0) :
    r.queue = Memory.read r.store (r.head % r.cap) ::
      ({ r with head := (r.head + 1) % r.cap, len := r.len - 1 } : Ring).queue := by
  obtain ⟨n, hn⟩ := Nat.exists_eq_succ_of_ne_zero h
  have hslot : ∀ j, r.slot (j + 1) = ((r.head + 1) % r.cap + j) % r.cap := fun j => by
    rw [slot, Nat.mod_add_mod, Nat.add_assoc, Nat.add_comm 1]
  rw [queue, hn, List.range_succ_eq_map, List.map_cons, List.map_map]
  exact congrArg _ (List.map_congr_left fun j _ => congrArg (Memory.read r.store) (hslot j))

/-! ### Push -/

theorem wf.queue_pushBack {r : Ring} (h : r.wf) (hroom : r.len < r.cap) (b : Byte) :
    (r.pushBack b).2.queue = r.queue ++ [some b] := by
  have hold : ∀ j ∈ List.range r.len,
      Memory.read (Memory.write r.store r.tail b) (r.slot j) = Memory.read r.store (r.slot j) := fun j hj =>
    Memory.read_write_other _ b (h.slot_ne_tail hroom (List.mem_range.1 hj))
  have hnew : Memory.read (Memory.write r.store r.tail b) (r.slot r.len) = some b := by
    rw [h.slot_len hroom, Memory.read_write_same]
  rw [pushBack_room r b hroom]
  show (List.range (r.len + 1)).map (fun j => Memory.read (Memory.write r.store r.tail b) (r.slot j)) = _
  rw [List.range_succ, List.map_append, List.map_congr_left hold, List.map_singleton, hnew, queue]

/-- A push keeps the ring's form, whether it succeeds or not (R104). -/
theorem wf.pushBack {r : Ring} (h : r.wf) (b : Byte) : (r.pushBack b).2.wf := by
  by_cases hroom : r.len < r.cap
  · have hq := h.queue_pushBack hroom b
    obtain ⟨-, hidx, -, hstore, hbound, hqueue⟩ := h
    obtain ⟨hhead, htail, htail_eq⟩ := hidx (by omega)
    rw [pushBack_room r b hroom] at hq ⊢
    refine ⟨hroom, fun hcap => ⟨hhead, Nat.mod_lt _ hcap, ?_⟩, fun hcap => ?_, Memory.wf_write _ _ _ hstore,
      Memory.bounded_write _ _ _ _ htail hbound, ?_⟩
    · show (r.tail + 1) % r.cap = (r.head + (r.len + 1)) % r.cap
      rw [htail_eq, Nat.mod_add_mod, Nat.add_assoc]
    · have : r.cap = 0 := hcap
      omega
    · rw [hq, List.all_append, hqueue]
      rfl
  · rwa [pushBack_full r b (by omega)]

/-! ### Pop and flush -/

/-- A pop takes the front of the queue, whatever an unspecified cell would hold (R105). -/
theorem wf.queue_popFront {r r' : Ring} {free b : Byte} (h : r.wf) (hpop : r.popFront free = some (b, r')) :
    r.queue = some b :: r'.queue := by
  obtain ⟨hlen, rfl, rfl⟩ := popFront_cases hpop
  have hknown := h.read_slot_isSome (j := 0) (by omega)
  obtain ⟨hle, hidx, -⟩ := h
  have hhead : r.head % r.cap = r.head := Nat.mod_eq_of_lt (hidx (by omega)).1
  rw [slot, Nat.add_zero, hhead] at hknown
  rw [queue_of_len_ne_zero r hlen, hhead, front]
  obtain ⟨x, hx⟩ := Option.isSome_iff_exists.1 hknown
  rw [hx, Option.getD_some]

/-- A pop keeps the ring's form (R105). -/
theorem wf.popFront {r r' : Ring} {free b : Byte} (h : r.wf) (hpop : r.popFront free = some (b, r')) : r'.wf := by
  have hq := h.queue_popFront hpop
  obtain ⟨hlen, -, rfl⟩ := popFront_cases hpop
  obtain ⟨hle, hidx, -, hstore, hbound, hqueue⟩ := h
  obtain ⟨-, htail, htail_eq⟩ := hidx (by omega)
  refine ⟨(Nat.sub_le _ _).trans hle, fun hcap => ⟨Nat.mod_lt _ hcap, htail, ?_⟩, fun hcap => ?_, hstore, hbound, ?_⟩
  · show r.tail = ((r.head + 1) % r.cap + (r.len - 1)) % r.cap
    rw [htail_eq, Nat.mod_add_mod, Nat.add_assoc, Nat.add_sub_cancel' (by omega)]
  · have : r.cap = 0 := hcap
    omega
  · rw [hq, List.all_cons] at hqueue
    simpa using hqueue

theorem popFront_cap {r r' : Ring} {free b : Byte} (hpop : r.popFront free = some (b, r')) : r'.cap = r.cap := by
  obtain ⟨-, -, rfl⟩ := popFront_cases hpop
  rfl

/-- A flushed ring has the form of one just created (R106). -/
theorem flush_wf (r : Ring) : r.flush.wf := create_wf r.cap

end Ring

/-- Settles O45, from the laws of push and pop on a well-formed ring. -/
theorem pushAndPopWorkTheQueue : Obligations.PushAndPopWorkTheQueue := by
  intro r h
  refine ⟨fun b hroom => ⟨?_, h.queue_pushBack hroom b, h.pushBack b⟩, fun b hfull => r.pushBack_full b hfull.ge,
    fun free hlen => ?_⟩
  · rw [r.pushBack_room b hroom]
  · have hpop := r.popFront_some free hlen
    exact ⟨_, _, hpop, h.queue_popFront hpop, h.popFront hpop⟩

end Sys2Proof.Machine
end

section
/-! PROOFS of O47, O48 and O53. The invariant is split into what it says of each channel's data (`ChannelData`) and
what it says of the progress register (`LegalAt`). Each shared operation keeps the data; each instruction and device
step, from a state of the invariant, ends in a state of it or raises a fault and is never refused (`Ends`). O47 and O53 are
two readings of that. -/

namespace Sys2Proof.Machine

/-! ### The invariant in parts -/

/-- What the invariant says of one channel's records (R21, R25, R30, R36, R232, R257). -/
structure ChannelData (cfg : Config) (c : Chan) (x : ChanState) (tx rx : Ring) (d : Device) : Prop where
  txWf  : tx.wf
  rxWf  : rx.wf
  ovf   : x.ovf ≤ cfg.ovfMax
  txie  : d.txie = x.init
  rxie  : d.rxie = x.init
  rdr   : d.rxcPend = true → d.rdr.isSome = true
  txCap : x.init = true → tx.cap = cfg.capTx.get c
  rxCap : x.init = true → rx.cap = cfg.capRx.get c
  baud  : x.init = true → 1 ≤ d.baud
  tdr   : x.init = false → d.tdr = none
  tsr   : x.init = false → d.tsr = none

/-- A channel as INIT makes it: its device keeps all but the rate and the two enables (R36, R212). -/
theorem channelData_init {cfg : Config} (c : Chan) {d : Device} (hcfg : cfg.wf)
    (hrdr : d.rxcPend = true → d.rdr.isSome = true) :
    ChannelData cfg c { init := true, ready := true, active := false, ovf := 0, cb := none }
      (Ring.create (cfg.capTx.get c)) (Ring.create (cfg.capRx.get c))
      { d with baud := cfg.defaultBaud, txie := true, rxie := true } := by
  obtain ⟨-, -, -, -, -, -, -, hbaud⟩ := hcfg
  exact ⟨Ring.create_wf _, Ring.create_wf _, Nat.zero_le _, rfl, rfl, hrdr, fun _ => rfl, fun _ => rfl,
    fun _ => hbaud, nofun, nofun⟩

/-- A channel as a hardware reset leaves it (R35). -/
theorem channelData_reset (cfg : Config) (c : Chan) (baud : Nat) :
    ChannelData cfg c ChanState.blank Ring.blank Ring.blank (Device.afterReset baud) :=
  ⟨Ring.blank_wf, Ring.blank_wf, Nat.zero_le _, rfl, rfl, nofun, nofun, nofun, nofun, fun _ => rfl, fun _ => rfl⟩

theorem channelInv_iff (s : State) (c : Chan) :
    ChannelInv s c ↔ ChannelData s.cfg c (s.ch.get c) (s.tx.get c) (s.rx.get c) (s.hal.get c) := by
  constructor
  · rintro ⟨htx, hrx, hovf, htxie, hrxie, hrdr, hinit, huninit⟩
    exact ⟨htx, hrx, hovf, htxie, hrxie, hrdr, fun h => (hinit h).1, fun h => (hinit h).2.1, fun h => (hinit h).2.2,
      fun h => (huninit h).1, fun h => (huninit h).2⟩
  · rintro ⟨htx, hrx, hovf, htxie, hrxie, hrdr, htxCap, hrxCap, hbaud, htdr, htsr⟩
    exact ⟨htx, hrx, hovf, htxie, hrxie, hrdr, fun h => ⟨htxCap h, hrxCap h, hbaud h⟩, fun h => ⟨htdr h, htsr h⟩⟩

/-- The micro-steps a command in progress can stand at, with the locals each finds (R22, R122, R124, R125). -/
def LegalMicroStep : Instr → Nat → Locals → Prop
  | .sendb _ _, k, _   => k ≤ 1
  | .startbuf _, k, L  => (1 ≤ k ∧ k ≤ 3) ∧ (k = 1 ∨ L.b.isSome = true)
  | .sendblk _ p, k, L => (1 ≤ k ∧ k ≤ p.length + 4) ∧ (p.length < k ∨ L.i + 1 = k) ∧
      (k ≤ p.length + 2 ∨ L.b.isSome = true)
  | _, _, _            => False

/-- What the invariant says of the progress register, given which channels are initialised. -/
def LegalAt (q : Progress) (ini : Chan → Bool) : Prop :=
  match q with
  | .idle       => True
  | .busy i k L => i.wf = true ∧ (∃ c, commandChan i = some c ∧ ini c = true) ∧ LegalMicroStep i k L

/-- Which channels are initialised. -/
def State.ini (s : State) (c : Chan) : Bool := (s.ch.get c).init

theorem legalProgress_iff (s : State) : legalProgress s = true ↔ LegalAt s.cc s.ini := by
  unfold legalProgress LegalAt
  cases s.cc with
  | idle => simp
  | busy i k L =>
    simp only [Bool.and_eq_true, Option.any_eq_true, and_assoc]
    refine and_congr_right fun _ => and_congr_right fun _ => ?_
    cases i <;> simp [LegalMicroStep, and_assoc]

/-- A state whose data meet the invariant, with progress `q` and the channels of `ini` initialised. -/
structure InvAt (q : Progress) (ini : Chan → Bool) (s : State) : Prop where
  cfg  : s.cfg.wf
  chan : ∀ c, ChannelData s.cfg c (s.ch.get c) (s.tx.get c) (s.rx.get c) (s.hal.get c)
  cc   : s.cc = q
  init : ∀ c, (s.ch.get c).init = ini c

theorem InvAt.machineInv {q : Progress} {ini : Chan → Bool} {s : State} (h : InvAt q ini s) (hl : LegalAt q ini) :
    MachineInv s := by
  obtain ⟨hcfg, hchan, rfl, hinit⟩ := h
  obtain rfl : s.ini = ini := funext hinit
  exact ⟨hcfg, fun c => (channelInv_iff s c).2 (hchan c), (legalProgress_iff s).2 hl⟩

theorem MachineInv.invAt {s : State} (h : MachineInv s) : InvAt s.cc s.ini s := by
  obtain ⟨hcfg, hchan, -⟩ := h
  exact ⟨hcfg, fun c => (channelInv_iff s c).1 (hchan c), rfl, fun _ => rfl⟩

theorem MachineInv.legalAt {s : State} (h : MachineInv s) : LegalAt s.cc s.ini := by
  obtain ⟨-, -, hlegal⟩ := h
  exact (legalProgress_iff s).1 hlegal

/-! ### Ending in a good result or in a fault -/

/-- A computation that completes with a result of `P` or raises a fault, and is not refused. -/
inductive Ends {α : Type} (P : α → Prop) : Effect α → Prop where
  | ok {a : α} (h : P a) : Ends P (.ok a)
  | raised (f : Fault) (tr : List Event) : Ends P (.error (.raise f tr))

theorem Ends.raise {α : Type} {P : α → Prop} (f : Fault) (s : State) : Ends P (raise f s : Effect α) :=
  .raised f s.trace

theorem Ends.map {α β : Type} {P : α → Prop} {Q : β → Prop} {f : α → β} {e : Effect α} (h : Ends P e)
    (hf : ∀ a, P a → Q (f a)) : Ends Q (e.map f) := by
  cases h with
  | ok h => exact .ok (hf _ h)
  | raised f tr => exact .raised f tr

/-- An outcome that is a next state of the invariant. -/
def KeepsInv (o : Host.Outcome State Fault Refusal) : Prop := ∃ t, o = .next t ∧ MachineInv t

/-- Recording a fault writes nothing the invariant speaks of (R240). -/
theorem MachineInv.takeFault {s : State} (h : MachineInv s) (f : Fault) (tr : List Event) :
    MachineInv (s.takeFault f tr) := h

theorem settle_keepsInv {s : State} {e : Effect State} (h : MachineInv s) (he : Ends MachineInv e) :
    KeepsInv (settle s e) := by
  cases he with
  | ok ht => exact ⟨_, rfl, ht⟩
  | raised f tr => exact ⟨_, rfl, h.takeFault f tr⟩

/-! ### The data under each update -/

/-- An increment keeps the overflow counter in its range (R25, R195). -/
theorem ovfInc_le (cfg : Config) {v : Nat} (hv : v ≤ cfg.ovfMax) : ovfInc cfg v ≤ cfg.ovfMax := by
  unfold ovfInc
  split
  · omega
  · split
    · exact Nat.zero_le _
    · exact hv

namespace InvAt

variable {q : Progress} {ini : Chan → Bool} {s : State}

section Updates
variable (h : InvAt q ini s) (c : Chan)
include h

theorem setCc (q' : Progress) : InvAt q' ini (s.setCc q') := ⟨h.cfg, h.chan, rfl, h.init⟩

theorem drawn (n : Nat) : InvAt q ini (s.drawn n) := ⟨h.cfg, h.chan, h.cc, h.init⟩

theorem emit (e : Event) : InvAt q ini (s.emit e) := ⟨h.cfg, h.chan, h.cc, h.init⟩

theorem refuse : InvAt q ini s.refuse := ⟨h.cfg, h.chan, h.cc, h.init⟩

theorem respond (st : Status) (v : BitVec 28) : InvAt .idle ini (s.respond st v) := (h.emit _).setCc _

theorem setCh {x : ChanState} (hinit : x.init = ini c)
    (hx : ChannelData s.cfg c x (s.tx.get c) (s.rx.get c) (s.hal.get c)) : InvAt q ini (s.setCh c x) := by
  refine ⟨h.cfg, fun d => ?_, h.cc, fun d => ?_⟩
  · obtain rfl | rfl := Chan.eq_or_other c d
    · simpa using hx
    · simpa using h.chan c.other
  · obtain rfl | rfl := Chan.eq_or_other c d
    · simpa using hinit
    · simpa using h.init c.other

theorem setTx {r : Ring} (hr : ChannelData s.cfg c (s.ch.get c) r (s.rx.get c) (s.hal.get c)) :
    InvAt q ini (s.setTx c r) := by
  refine ⟨h.cfg, fun d => ?_, h.cc, h.init⟩
  obtain rfl | rfl := Chan.eq_or_other c d
  · simpa using hr
  · simpa using h.chan c.other

theorem setRx {r : Ring} (hr : ChannelData s.cfg c (s.ch.get c) (s.tx.get c) r (s.hal.get c)) :
    InvAt q ini (s.setRx c r) := by
  refine ⟨h.cfg, fun d => ?_, h.cc, h.init⟩
  obtain rfl | rfl := Chan.eq_or_other c d
  · simpa using hr
  · simpa using h.chan c.other

theorem setHal {d : Device} (hd : ChannelData s.cfg c (s.ch.get c) (s.tx.get c) (s.rx.get c) d) :
    InvAt q ini (s.setHal c d) := by
  refine ⟨h.cfg, fun e => ?_, h.cc, h.init⟩
  obtain rfl | rfl := Chan.eq_or_other c e
  · simpa using hd
  · simpa using h.chan c.other

theorem setHal_emit {d : Device} {e : Event} (hd : ChannelData s.cfg c (s.ch.get c) (s.tx.get c) (s.rx.get c) d) :
    InvAt q ini ((s.setHal c d).emit e) := (h.setHal c hd).emit e

/-! ### The data under each shared operation -/

theorem modifyTx {r : Ring} (hwf : r.wf) (hcap : r.cap = (s.tx.get c).cap) : InvAt q ini (s.setTx c r) :=
  h.setTx c { h.chan c with txWf := hwf, txCap := fun hi => hcap.trans ((h.chan c).txCap hi) }

theorem modifyRx {r : Ring} (hwf : r.wf) (hcap : r.cap = (s.rx.get c).cap) : InvAt q ini (s.setRx c r) :=
  h.setRx c { h.chan c with rxWf := hwf, rxCap := fun hi => hcap.trans ((h.chan c).rxCap hi) }

theorem setFlags (ready active : Bool) : InvAt q ini (s.setCh c { s.ch.get c with ready := ready, active := active }) :=
  h.setCh c (h.init c) { h.chan c with }

theorem setCallback (cb : Option Token) : InvAt q ini (s.setCh c { s.ch.get c with cb := cb }) :=
  h.setCh c (h.init c) { h.chan c with }

theorem pushTx (b : Byte) : InvAt q ini (Machine.pushTx c b s) :=
  h.modifyTx c ((h.chan c).txWf.pushBack b) (Ring.pushBack_cap _ b)

theorem pushRx (b : Byte) : InvAt q ini (Machine.pushRx c b s).2 :=
  h.modifyRx c ((h.chan c).rxWf.pushBack b) (Ring.pushBack_cap _ b)

theorem flushRx : InvAt q ini (Machine.flushRx c s) := h.modifyRx c (Ring.flush_wf _) rfl

theorem popTx : Ends (fun x => InvAt q ini x.2) (Machine.popTx c s) := by
  unfold Machine.popTx
  split
  · exact .raise _ _
  · exact .ok ((h.modifyTx c ((h.chan c).txWf.popFront ‹_›) (Ring.popFront_cap ‹_›)).drawn _)

theorem popRx : Ends (fun x => InvAt q ini x.2) (Machine.popRx c s) := by
  unfold Machine.popRx
  split
  · exact .raise _ _
  · exact .ok ((h.modifyRx c ((h.chan c).rxWf.popFront ‹_›) (Ring.popFront_cap ‹_›)).drawn _)

theorem halSetBaud {rate : Nat} (hrate : 1 ≤ rate) : InvAt q ini (Machine.halSetBaud c rate s) :=
  h.setHal_emit c { h.chan c with baud := fun _ => hrate }

theorem clearTxcPend : InvAt q ini (Machine.clearTxcPend c s) := h.setHal c { h.chan c with }

/-- Nothing is asked of an initialised channel under the premise that it is not. -/
theorem absurd_uninit (hini : ini c = true) {p : Prop} (hi : (s.ch.get c).init = false) : p := by
  simp [h.init c, hini] at hi

theorem halWriteTdr (hini : ini c = true) (b : Byte) (who : Who) :
    Ends (InvAt q ini) (Machine.halWriteTdr c b who s) := by
  obtain ⟨he, -⟩ | ⟨he, -⟩ := halWriteTdr_cases c b who s
  · exact he ▸ .raise _ _
  · rw [he]
    exact .ok (h.setHal_emit c { h.chan c with tdr := h.absurd_uninit c hini })

theorem halReadRdr : Ends (fun x => InvAt q ini x.2) (Machine.halReadRdr c s) := by
  unfold Machine.halReadRdr
  split
  · exact .raise _ _
  · exact .ok (h.setHal c { h.chan c with rdr := nofun })

end Updates

/-! ### The commands' micro-steps -/

theorem advance {i : Instr} {k : Nat} {L : Locals} (h : InvAt (.busy i k L) ini s) :
    InvAt (.busy i (k + 1) L) ini s.advance := by
  rw [State.advance_eq s h.cc]
  exact h.setCc _

theorem setLocals {i : Instr} {k : Nat} {L : Locals} (h : InvAt (.busy i k L) ini s) (M : Locals) :
    InvAt (.busy i k M) ini (s.setLocals M) := by
  rw [State.setLocals_eq s h.cc]
  exact h.setCc _

section MicroSteps
variable (h : InvAt q ini s) (c : Chan)
include h

/-- A response ends the command, so only the data of the invariant are left to keep. -/
theorem machineInv_respond (st : Status) (v : BitVec 28) : MachineInv (s.respond st v) :=
  (h.respond st v).machineInv trivial

/-- INIT makes a channel that meets the invariant, and leaves the other one alone (R212). -/
theorem initStep : Ends MachineInv (Machine.initStep c s) := by
  unfold Machine.initStep
  split
  · exact .raise _ _
  · refine .ok (InvAt.machineInv (q := .idle) (ini := State.ini _) ⟨h.cfg, fun d => ?_, rfl, fun _ => rfl⟩ trivial)
    obtain rfl | rfl := Chan.eq_or_other c d
    · simpa [halEnableIrqs, Machine.halSetBaud] using channelData_init _ h.cfg (h.chan _).rdr
    · simpa [halEnableIrqs, Machine.halSetBaud] using h.chan c.other

theorem setbaudStep {rate : Rate} (hrate : 1 ≤ rate.toNat) : Ends MachineInv (Machine.setbaudStep rate c s) := by
  unfold Machine.setbaudStep
  split
  · exact .raise _ _
  · exact .ok ((h.halSetBaud c hrate).machineInv_respond _ _)

theorem recvStep : Ends MachineInv (Machine.recvStep c s) := by
  unfold Machine.recvStep
  split
  · exact (h.popRx c).map fun _ ht => ht.machineInv_respond _ _
  · exact .ok (h.machineInv_respond _ _)

theorem writeAndRespond (hini : ini c = true) (b : Byte) : Ends MachineInv (Machine.writeAndRespond c b s) :=
  ((h.halWriteTdr c hini b .facade).map fun _ ht => ht.setFlags c false _).map fun _ ht => ht.machineInv_respond _ _

/-! ### The handlers -/

theorem txcHandler : Ends (InvAt q ini) (Machine.txcHandler c s) := by
  have hclear := h.clearTxcPend c
  unfold Machine.txcHandler
  split
  · exact .raise _ _
  · rename_i hinit
    have hini : ini c = true := by rw [← h.init c]; simpa using hinit
    split
    · split
      · have hpop := hclear.popTx c
        generalize Machine.popTx c _ = e at hpop ⊢
        cases hpop with
        | ok ht => exact ht.halWriteTdr c hini _ _
        | raised f tr => exact .raised f tr
      · exact .ok (hclear.setFlags c true false)
    · exact .ok (hclear.setFlags c true false)

theorem bufferOrCount (b : Byte) : InvAt q ini (Machine.bufferOrCount c b s) := by
  have hpush := h.pushRx c b
  unfold Machine.bufferOrCount
  generalize Machine.pushRx c b s = x at hpush ⊢
  obtain ⟨_ | _, t⟩ := x
  · exact hpush.setCh c (hpush.init c) { hpush.chan c with ovf := ovfInc_le _ (hpush.chan c).ovf }
  · exact hpush

theorem rxcHandler : Ends (InvAt q ini) (Machine.rxcHandler c s) := by
  have hread := h.halReadRdr c
  unfold Machine.rxcHandler
  generalize Machine.halReadRdr c s = e at hread ⊢
  cases hread with
  | raised f tr => exact .raised f tr
  | ok ht =>
    simp only
    split
    · exact .raise _ _
    · split
      · exact .ok (ht.emit _)
      · exact .ok (ht.bufferOrCount c _)

/-! ### The device steps -/

/-- MOVE finds a full TDR, so the channel is initialised and its TSR is free to hold a byte (R251). -/
theorem moveStep {t : State} (ht : Machine.moveStep c s = some t) : InvAt q ini t := by
  unfold Machine.moveStep at ht
  split at ht
  · rename_i b htdr _
    cases ht
    exact h.setHal c { h.chan c with tdr := fun _ => rfl, tsr := fun hi => absurd ((h.chan c).tdr hi) (by simp [htdr]) }
  · cases ht

theorem shiftStep {t : State} (ht : Machine.shiftStep c s = some t) : InvAt q ini t := by
  unfold Machine.shiftStep at ht
  split at ht
  · cases ht
  · cases ht
    exact h.setHal_emit c { h.chan c with tsr := fun _ => rfl }

theorem arriveStep (b : Byte) : InvAt q ini (Machine.arriveStep c b s) := by
  unfold Machine.arriveStep
  split
  · exact h.setHal c { h.chan c with rdr := fun _ => rfl }
  · exact h.setHal c { h.chan c with }

theorem injTxcStep {t : State} (ht : Machine.injTxcStep c s = some t) : InvAt q ini t := by
  unfold Machine.injTxcStep at ht
  split at ht
  · cases ht
  · cases ht
    exact h.setHal c { h.chan c with }

theorem injRxStep (b : Byte) {t : State} (ht : Machine.injRxStep c b s = some t) : InvAt q ini t := by
  unfold Machine.injRxStep at ht
  split at ht
  · cases ht
  · cases ht
    exact h.setHal c { h.chan c with rdr := fun _ => rfl }

end MicroSteps

/-- A device step or a refused request keeps the invariant's data. -/
theorem environmentStep (h : InvAt q ini s) {x : Choice} {t : State} (ht : environmentStep s x = some t) :
    InvAt q ini t := by
  cases x with
  | move c      => exact h.moveStep c ht
  | shift c     => exact h.shiftStep c ht
  | arrive c b  => cases ht; exact h.arriveStep c b
  | injTxc c    => exact h.injTxcStep c ht
  | injRx c b   => exact h.injRxStep c b ht
  | forbidden y => cases ht; exact h.refuse
  | call        => cases ht
  | event ev    => cases ht
  | reset       => cases ht

end InvAt

/-! ### A command at a micro-step -/

/-- The well-formed command `i` on channel `c` is at a micro-step it can be at, from a state whose data meet the
invariant: its issue, or a legal micro-step of a command in progress. -/
structure RunsAt (i : Instr) (c : Chan) (k : Nat) (L : Locals) (ini : Chan → Bool) (u : State) : Prop where
  inv     : InvAt (.busy i k L) ini u
  wf      : i.wf = true
  chan    : commandChan i = some c
  reached : k = 0 ∨ LegalMicroStep i k L

namespace RunsAt

variable {i : Instr} {c : Chan} {k : Nat} {L : Locals} {ini : Chan → Bool} {s : State}

/-- The command stands at a legal micro-step afterwards. -/
theorem machineInv (h : RunsAt i c k L ini s) (hini : ini c = true) {j : Nat} {M : Locals} {t : State}
    (ht : InvAt (.busy i j M) ini t) (hl : LegalMicroStep i j M) : MachineInv t :=
  ht.machineInv ⟨h.wf, ⟨c, h.chan, hini⟩, hl⟩

theorem hold (h : RunsAt i c k L ini s) (hini : ini c = true) (hstay : LegalMicroStep i k L)
    (hgo : LegalMicroStep i (k + 1) L) : MachineInv (hold c s) := by
  unfold Machine.hold
  split
  · exact h.machineInv hini h.inv.advance hgo
  · exact h.machineInv hini h.inv hstay

theorem sendbSteps {ch : Sel} {b : Byte} (h : RunsAt (.sendb ch b) c k L ini s) (hini : ini c = true) :
    Ends MachineInv (sendbSteps b c k L s) := by
  have hk : k ≤ 1 := h.reached.elim (fun hk => by omega) id
  match k with
  | 0 => exact .ok (h.hold hini (Nat.zero_le _) (Nat.le_refl 1))
  | 1 => exact h.inv.writeAndRespond c hini b

/-- The four micro-steps STARTBUF and SENDBLK share, of a command whose micro-steps from `k₀` on they are. -/
theorem startSending {k₀ j : Nat} (h : RunsAt i c (k₀ + j) L ini s) (hini : ini c = true)
    (hlegal : ∀ j M, 1 ≤ j → j ≤ 3 → (j = 1 ∨ M.b.isSome = true) → LegalMicroStep i (k₀ + j) M)
    (hj : j ≤ 3) (hb : j ≤ 1 ∨ L.b.isSome = true) : Ends MachineInv (startSending c j L s) := by
  match j with
  | 0 =>
    have hset : InvAt (.busy i k₀ L) ini (s.setActive c true) := h.inv.setFlags c _ true
    exact .ok (h.machineInv hini hset.advance (hlegal 1 L (by omega) (by omega) (.inl rfl)))
  | 1 =>
    refine (h.inv.popTx c).map fun x hx => ?_
    exact h.machineInv hini (hx.setLocals _).advance (hlegal 2 _ (by omega) (by omega) (.inr rfl))
  | 2 =>
    have hbyte : L.b.isSome = true := hb.resolve_left (by omega)
    exact .ok (h.hold hini (hlegal 2 L (by omega) (by omega) (.inr hbyte))
      (hlegal 3 L (by omega) (by omega) (.inr hbyte)))
  | 3 =>
    obtain ⟨b, hbyte⟩ := Option.isSome_iff_exists.1 (hb.resolve_left (by omega))
    simp only [Machine.startSending, hbyte]
    exact h.inv.writeAndRespond c hini b

theorem startbufSteps {ch : Sel} (h : RunsAt (.startbuf ch) c k L ini s) (hini : ini c = true) :
    Ends MachineInv (Machine.startSending c k L s) := by
  rw [← Nat.zero_add k] at h
  refine h.startSending hini (fun j M hlo hhi hb => ?_) ?_ ?_
  · rw [Nat.zero_add]
    exact ⟨⟨hlo, hhi⟩, hb⟩
  · obtain hk | ⟨⟨-, hhi⟩, -⟩ := h.reached <;> omega
  · obtain hk | ⟨-, hk | hb⟩ := h.reached
    · exact .inl (by omega)
    · exact .inl (by omega)
    · exact .inr hb

theorem sendblkCheck {ch : Sel} {p : List Byte} (h : RunsAt (.sendblk ch p) c 0 L ini s) (hini : ini c = true) :
    Ends MachineInv (sendblkCheck p c L s) := by
  unfold Machine.sendblkCheck
  split
  · exact .ok (h.machineInv hini (h.inv.setLocals _).advance
      ⟨⟨by omega, by omega⟩, .inr rfl, .inl (by omega)⟩)
  · exact .ok (h.inv.machineInv_respond _ _)

/-- At micro-step `k` from 1 to `n` the index is `k - 1`, so there is a byte to push (R125). -/
theorem sendblkPush {ch : Sel} {p : List Byte} (h : RunsAt (.sendblk ch p) c k L ini s) (hini : ini c = true)
    (hk0 : k ≠ 0) (hk : k ≤ p.length) : Ends MachineInv (sendblkPush p c L s) := by
  obtain ⟨-, hi, -⟩ := h.reached.resolve_left hk0
  have hi : L.i + 1 = k := hi.resolve_left (by omega)
  have hbyte : payloadByte p L.i = some p[L.i] := List.getElem?_eq_getElem (by omega)
  simp only [Machine.sendblkPush, hbyte]
  exact .ok (h.machineInv hini ((h.inv.pushTx c _).setLocals _).advance
    ⟨⟨by omega, by omega⟩, .inr (congrArg (· + 1) hi), .inl (by omega)⟩)

theorem sendblkSteps {ch : Sel} {p : List Byte} (h : RunsAt (.sendblk ch p) c k L ini s) (hini : ini c = true) :
    Ends MachineInv (sendblkSteps p c k L s) := by
  unfold Machine.sendblkSteps
  split
  · subst k
    exact h.sendblkCheck hini
  · split
    · exact h.sendblkPush hini ‹_› ‹_›
    · obtain ⟨⟨-, hhi⟩, -, hb⟩ := h.reached.resolve_left ‹_›
      obtain ⟨j, rfl⟩ : ∃ j, k = p.length + 1 + j := Nat.exists_eq_add_of_le (by omega)
      rw [Nat.add_sub_cancel_left]
      refine h.startSending hini (fun j M hlo hj hb => ?_) (by omega) (hb.imp_left fun _ => by omega)
      exact ⟨⟨by omega, by omega⟩, .inl (by omega), hb.imp_left fun _ => by omega⟩

end RunsAt

/-! ### The frames -/

section Command
variable {i : Instr} {s : State} (h : MachineInv s) (hcc : s.cc = .idle ∨ ∃ k L, s.cc = .busy i k L)
include h hcc

/-- The command frame finds the command at its issue or at a legal micro-step. -/
theorem progressOf_reached : ∃ k L, progressOf i s.cc = some (k, L) ∧ (k = 0 ∨ LegalMicroStep i k L) := by
  obtain hcc | ⟨k, L, hcc⟩ := hcc
  · exact ⟨0, .start, by rw [hcc, progressOf_idle], .inl rfl⟩
  · have hl := h.legalAt
    rw [hcc] at hl
    obtain ⟨-, -, hl⟩ := hl
    exact ⟨k, L, by rw [hcc, progressOf_busy], .inr hl⟩

variable (hf : s.faults = none) (hwf : i.wf = true)
include hf hwf

theorem runCommand_keepsInv {sel : Sel} {needsInit : Bool} {body : Chan → Nat → Locals → State → Effect State}
    (hsel : commandSel i = some sel)
    (hbody : ∀ {c k L u}, RunsAt i c k L s.ini u → (needsInit = true → s.ini c = true) →
      Ends MachineInv (body c k L u)) :
    KeepsInv (runCommand i sel needsInit body s) := by
  obtain ⟨k, L, hp, hreached⟩ := progressOf_reached h hcc
  simp only [runCommand, hf, hp]
  split
  · exact ⟨_, rfl, h.invAt.machineInv_respond _ _⟩
  · rename_i c hc
    have hchan : commandChan i = some c := by rw [commandChan, hsel, Option.bind_some, hc]
    split
    · exact settle_keepsInv h (.raise _ _)
    · rename_i hinit
      refine settle_keepsInv h (hbody ⟨h.invAt.setCc _, hwf, hchan, hreached⟩ fun hn => ?_)
      simpa [hn, State.ini] using hinit

/-- A command of one micro-step is only ever at its issue. -/
theorem runOneStep_keepsInv {sel : Sel} {needsInit : Bool} {k0 : Chan → State → Effect State}
    (hsel : commandSel i = some sel) (hone : ∀ k L, ¬ LegalMicroStep i k L)
    (hk0 : ∀ {c q u}, InvAt q s.ini u → Ends MachineInv (k0 c u)) :
    KeepsInv (runCommand i sel needsInit (oneStep k0) s) := by
  refine runCommand_keepsInv h hcc hf hwf hsel fun hr _ => ?_
  obtain rfl := hr.reached.resolve_right (hone _ _)
  exact hk0 hr.inv

/-- A well-formed command, issued or in progress, keeps the invariant and is not refused. -/
theorem exec_command_keepsInv (hcmd : ∀ ev, i ≠ decodeVector ev) : KeepsInv (exec i s) := by
  cases i with
  | init ch         => exact runOneStep_keepsInv h hcc hf hwf rfl (fun _ _ => id) fun hu => hu.initStep _
  | setcb ch cb     =>
    exact runOneStep_keepsInv h hcc hf hwf rfl (fun _ _ => id) fun hu =>
      .ok ((hu.setCallback _ cb).machineInv_respond _ _)
  | setbaud ch rate =>
    have hrate : 1 ≤ rate.toNat := by
      have : rate ≠ 0 := by simpa [Instr.wf] using hwf
      bv_omega
    exact runOneStep_keepsInv h hcc hf hwf rfl (fun _ _ => id) fun hu => hu.setbaudStep _ hrate
  | sendb ch b      => exact runCommand_keepsInv h hcc hf hwf rfl fun hr hini => hr.sendbSteps (hini rfl)
  | enqb ch b       =>
    exact runOneStep_keepsInv h hcc hf hwf rfl (fun _ _ => id) fun hu => .ok ((hu.pushTx _ b).machineInv_respond _ _)
  | sendblk ch p    => exact runCommand_keepsInv h hcc hf hwf rfl fun hr hini => hr.sendblkSteps (hini rfl)
  | startbuf ch     => exact runCommand_keepsInv h hcc hf hwf rfl fun hr hini => hr.startbufSteps (hini rfl)
  | recv ch         => exact runOneStep_keepsInv h hcc hf hwf rfl (fun _ _ => id) fun hu => hu.recvStep _
  | flushrx ch      =>
    exact runOneStep_keepsInv h hcc hf hwf rfl (fun _ _ => id) fun hu => .ok ((hu.flushRx _).machineInv_respond _ _)
  | rxempty ch      =>
    exact runOneStep_keepsInv h hcc hf hwf rfl (fun _ _ => id) fun hu => .ok (hu.machineInv_respond _ _)
  | txpend ch       =>
    exact runOneStep_keepsInv h hcc hf hwf rfl (fun _ _ => id) fun hu => .ok (hu.machineInv_respond _ _)
  | ovfcnt ch       =>
    exact runOneStep_keepsInv h hcc hf hwf rfl (fun _ _ => id) fun hu => .ok (hu.machineInv_respond _ _)
  | rxc0            => exact absurd rfl (hcmd 0)
  | txc0            => exact absurd rfl (hcmd 1)
  | rxc1            => exact absurd rfl (hcmd 2)
  | txc1            => exact absurd rfl (hcmd 3)
  | reserved w      =>
    obtain ⟨k, L, hp, -⟩ := progressOf_reached h hcc
    refine ⟨s.respond .errIllegal 0, ?_, h.invAt.machineInv_respond _ _⟩
    simp only [exec, execReserved, hf, hp]

end Command

theorem takeEvent_keepsInv {c : Chan} {kind : Kind} {handler : State → Effect State} {s : State} (h : MachineInv s)
    (he : handlerEnabled s c kind = true) (hh : Ends (InvAt s.cc s.ini) (handler s)) :
    KeepsInv (takeEvent c kind handler s) := by
  rw [takeEvent_run he]
  refine settle_keepsInv h ?_
  generalize handler s = e at hh ⊢
  cases hh with
  | ok ht => exact .ok (ht.machineInv h.legalAt)
  | raised f tr => exact .raised f tr

/-- The handler of a source (R171, R191). -/
def handlerOf (c : Chan) : Kind → State → Effect State
  | .rxc => rxcHandler c
  | .txc => txcHandler c

theorem vector_cases : ∀ ev : BitVec 2, ev = 0 ∨ ev = 1 ∨ ev = 2 ∨ ev = 3 := by decide

/-- The instruction of an event vector is the handler of the vector's source (R76, R234). -/
theorem exec_decodeVector (ev : BitVec 2) (s : State) :
    exec (decodeVector ev) s =
      takeEvent (vectorChan ev) (vectorKind ev) (handlerOf (vectorChan ev) (vectorKind ev)) s := by
  obtain rfl | rfl | rfl | rfl := vector_cases ev <;> rfl

theorem exec_vector_keepsInv {ev : BitVec 2} {s : State} (h : MachineInv s) (he : vectorEnabled ev s = true) :
    KeepsInv (exec (decodeVector ev) s) := by
  rw [exec_decodeVector]
  refine takeEvent_keepsInv h he ?_
  cases vectorKind ev with
  | rxc => exact h.invAt.rxcHandler _
  | txc => exact h.invAt.txcHandler _

/-! ### The call context's command -/

/-- A word that is not illegal has an operation code whose format its fields keep (R74, R77). -/
theorem legal_word {w : Word} (h : ¬ illegal w = true) :
    ∃ f, formatOf (opField w) = some f ∧ argAllowed f w = true := by
  unfold illegal at h
  split at h
  · exact absurd rfl h
  · simp only [Bool.or_eq_true, bne_iff_ne, Bool.not_eq_true', not_or, Bool.not_eq_false] at h
    exact ⟨_, ‹_›, h.2⟩

/-- A command decodes to a well-formed instruction (R71, R74, R75, R77). -/
theorem decodeCommand_wf {w : Word} {p : List Byte} {i : Instr} (h : decodeCommand w p = .ok i) : i.wf = true := by
  unfold decodeCommand at h
  split at h
  · cases h
    assumption
  · rename_i hlegal
    obtain ⟨f, hf, harg⟩ := legal_word hlegal
    unfold formatOf at hf
    split at h
    case h_3 hop =>
      cases h
      simp only [hop] at hf
      cases hf
      exact harg
    case h_6 =>
      split at h
      · rename_i hlen
        cases h
        simp [Instr.wf, hlen, (countField w).isLt]
      · cases h
    case h_13 => simp_all
    all_goals cases h; rfl

/-- An event vector's instruction has no selector and is no illegal word. -/
theorem decodeVector_no_command (ev : BitVec 2) :
    commandSel (decodeVector ev) = none ∧ ∀ w, decodeVector ev ≠ .reserved w := by
  obtain rfl | rfl | rfl | rfl := vector_cases ev <;> exact ⟨rfl, nofun⟩

/-- No command decodes to an event vector (R71, R76). -/
theorem decodeCommand_ne_vector {w : Word} {p : List Byte} (ev : BitVec 2) :
    decodeCommand w p ≠ .ok (decodeVector ev) := by
  obtain ⟨hnone, hres⟩ := decodeVector_no_command ev
  generalize decodeVector ev = i at hnone hres
  intro h
  unfold decodeCommand at h
  split at h
  · cases h
    exact hres _ rfl
  · split at h
    case h_6 =>
      split at h <;> cases h
      cases hnone
    case h_13 =>
      cases h
      exact hres _ rfl
    all_goals cases h; cases hnone

/-- What the call context runs from a state of the invariant, it runs from one: a well-formed command, at its issue or
in progress. -/
theorem MachineInv.fetchCall_run {s u : State} {i : Instr} (h : MachineInv s) (hf : fetchCall s = .run i u) :
    MachineInv u ∧ u.faults = s.faults ∧ i.wf = true ∧ (∀ ev, i ≠ decodeVector ev) ∧
    (u.cc = .idle ∨ ∃ k L, u.cc = .busy i k L) := by
  obtain ⟨k, L, hcc, rfl⟩ | ⟨hcc, d, ds, -, hd, rfl⟩ := fetchCall_run_cases hf
  · have hl := h.legalAt
    rw [hcc] at hl
    obtain ⟨hwf, ⟨c, hc, -⟩, -⟩ := hl
    refine ⟨h, rfl, hwf, ?_, .inr ⟨k, L, hcc⟩⟩
    rintro ev rfl
    obtain ⟨hnone, -⟩ := decodeVector_no_command ev
    rw [commandChan, hnone] at hc
    cases hc
  · exact ⟨h, rfl, decodeCommand_wf hd, fun ev hi => decodeCommand_ne_vector ev (hi ▸ hd), .inl hcc⟩

/-! ### The step -/

theorem callStep_keepsInv {s : State} (h : MachineInv s) (hf : s.faults = none) : KeepsInv (callStep s) := by
  unfold callStep
  split
  · exact ⟨_, rfl, h⟩
  · obtain ⟨hu, hfaults, hwf, hcmd, hcc⟩ := h.fetchCall_run ‹_›
    exact exec_command_keepsInv hu hcc (hfaults.trans hf) hwf hcmd
  · obtain ⟨-, _, _, _, -, -, rfl⟩ := fetchCall_mismatched_cases ‹_›
    exact ⟨_, rfl, h⟩

theorem environmentStep_keepsInv {s : State} (h : MachineInv s) (x : Choice) :
    MachineInv ((environmentStep s x).getD s) := by
  cases ht : environmentStep s x with
  | none => exact h
  | some t => exact (h.invAt.environmentStep ht).machineInv h.legalAt

theorem choiceStep_keepsInv {s : State} (h : MachineInv s) (hf : s.faults = none) (x : Choice) :
    KeepsInv (choiceStep x s) := by
  cases x with
  | call     => exact callStep_keepsInv h hf
  | event ev =>
    simp only [choiceStep, eventStep]
    split
    · exact exec_vector_keepsInv h ‹_›
    · exact ⟨_, rfl, h⟩
  | _        => exact ⟨_, rfl, environmentStep_keepsInv h _⟩

/-- Both channels as a reset leaves them, and an idle call context, meet the invariant (R35). -/
theorem machineInv_of_reset {s : State} (hcfg : s.cfg.wf) (hcc : s.cc = .idle)
    (hch : ∀ c, s.ch.get c = ChanState.blank) (htx : ∀ c, s.tx.get c = Ring.blank)
    (hrx : ∀ c, s.rx.get c = Ring.blank) (hhal : ∀ c, ∃ baud, s.hal.get c = Device.afterReset baud) : MachineInv s := by
  refine InvAt.machineInv ⟨hcfg, fun c => ?_, hcc, fun _ => rfl⟩ trivial
  obtain ⟨baud, hb⟩ := hhal c
  rw [hch, htx, hrx, hb]
  exact channelData_reset s.cfg c baud

theorem MachineInv.hardReset {s : State} (h : MachineInv s) : MachineInv s.hardReset :=
  machineInv_of_reset h.invAt.cfg rfl s.hardReset_ch s.hardReset_tx s.hardReset_rx s.hardReset_hal

/-- A fault is recorded and the next choice is no hardware reset, so no transition is enabled (R240, R270). -/
def Stopped (s : State) (f : Fault) : Prop := s.faults = some f ∧ ∀ rest, s.sched ≠ .reset :: rest

theorem step_stopped {s : State} {f : Fault} (h : Stopped s f) : step s = .fault f := by
  obtain ⟨hf, hr⟩ := h
  unfold step
  split
  · exact absurd ‹_› (hr _)
  · rw [hf]

theorem step_reset {s : State} {rest : List Choice} (hs : s.sched = .reset :: rest) :
    step s = .next ({ s with sched := rest }).hardReset := by
  simp [step, hs]

theorem step_no_choice {s : State} (hs : s.sched = []) (hf : s.faults = none) : step s = .next s := by
  simp [step, hs, hf]

/-- Every step of a machine that is not stopped keeps the invariant. -/
theorem step_keepsInv {s : State} (h : MachineInv s) (hrun : ∀ f, ¬ Stopped s f) : KeepsInv (step s) := by
  by_cases hreset : ∃ rest, s.sched = .reset :: rest
  · obtain ⟨rest, hs⟩ := hreset
    have hrest : MachineInv { s with sched := rest } := h
    exact ⟨_, step_reset hs, hrest.hardReset⟩
  · have hf : s.faults = none :=
      Option.eq_none_iff_forall_ne_some.2 fun f hf => hrun f ⟨hf, fun rest hs => hreset ⟨rest, hs⟩⟩
    cases hs : s.sched with
    | nil => exact ⟨s, step_no_choice hs hf, h⟩
    | cons x rest =>
      have hx : x ≠ .reset := by
        rintro rfl
        exact hreset ⟨rest, hs⟩
      have hrest : MachineInv { s with sched := rest } := h
      rw [step_cons hs hx hf]
      exact choiceStep_keepsInv hrest hf x

/-- Settles O47, from `step_keepsInv`; a stopped machine answers no next state. -/
theorem everyStepKeepsTheInvariant : Obligations.EveryStepKeepsTheInvariant := by
  intro s t h ht
  by_cases hstop : ∃ f, Stopped s f
  · obtain ⟨f, hf⟩ := hstop
    rw [step_stopped hf] at ht
    cases ht
  · obtain ⟨u, hu, hinv⟩ := step_keepsInv h (not_exists.1 hstop)
    rw [hu] at ht
    cases ht
    exact hinv

/-- Settles O53, from `step_keepsInv` and `step_stopped`. -/
theorem theMachineStopsOnlyOnARecordedFault : Obligations.TheMachineStopsOnlyOnARecordedFault := by
  intro s h
  by_cases hstop : ∃ f, Stopped s f
  · obtain ⟨f, hf, hr⟩ := hstop
    rw [step_stopped ⟨hf, hr⟩]
    refine ⟨nofun, fun g => ⟨?_, ?_⟩⟩
    · rintro ⟨⟩
      exact ⟨hf, hr⟩
    · rintro ⟨hg, -⟩
      exact congrArg _ (Option.some.inj (hf.symm.trans hg))
  · obtain ⟨u, hu, -⟩ := step_keepsInv h (not_exists.1 hstop)
    rw [hu]
    exact ⟨nofun, fun f => ⟨nofun, fun hf => absurd ⟨f, hf⟩ hstop⟩⟩

/-! ### The invariants at reset -/

theorem resetIn_machineInv {cfg : Config} (baud : PerChan Nat) (hcfg : cfg.wf) : MachineInv (State.resetIn cfg baud) :=
  machineInv_of_reset hcfg rfl (PerChan.get_mk_same _) (PerChan.get_mk_same _) (PerChan.get_mk_same _)
    fun c => ⟨baud.get c, by cases c <;> rfl⟩

/-- An uninitialised channel is not ARMED (R35, R177). -/
theorem resetIn_armedInv (cfg : Config) (baud : PerChan Nat) : ArmedInv (State.resetIn cfg baud) := by
  intro c harmed
  rw [show (State.resetIn cfg baud).ch.get c = ChanState.blank from PerChan.get_mk_same _ c] at harmed
  cases harmed

/-- An uninitialised channel's transmitter is empty, with nothing pending (R35, R281). -/
theorem resetIn_eagerInv (cfg : Config) (baud : PerChan Nat) : EagerInv (State.resetIn cfg baud) := by
  intro c
  cases c <;> exact ⟨nofun, nofun, fun _ => ⟨rfl, rfl, rfl⟩, rfl⟩

/-- Settles O48; `State.reset` is the power-on state of the configuration `Config.exampleK`. -/
theorem theInvariantsHoldAtReset : Obligations.TheInvariantsHoldAtReset :=
  ⟨resetIn_machineInv _ (by decide), fun cfg baud hcfg =>
    ⟨resetIn_machineInv baud hcfg, resetIn_armedInv cfg baud, resetIn_eagerInv cfg baud⟩⟩

end Sys2Proof.Machine
end

section
/-! PROOFS of O6, O8, O10 and O31: the call context's step, the stopped machine, the values at power-on, and the two
status queries. -/

namespace Sys2Proof.Machine

/-- The call context's choice, taken with no fault recorded. -/
theorem step_call {s : State} {rest : List Choice} (hf : s.faults = none) (hs : s.sched = .call :: rest) :
    step s = callStep { s with sched := rest } := step_cons hs nofun hf

theorem callStep_run {s u : State} {i : Instr} (h : fetchCall s = .run i u) : callStep s = exec i u := by
  simp only [callStep, h]

/-- Settles O6: the fetch finds the host's next command, or the command in progress. -/
theorem stepRunsTheCallContextsCommand : Obligations.StepRunsTheCallContextsCommand := by
  refine ⟨fun s rest d ds i hf hcc hs hcmds hd => ?_, fun s rest i k L hf hcc hs => ?_⟩
  · rw [step_call hf hs]
    exact callStep_run (fetchCall_idle (s := { s with sched := rest }) hcc hcmds hd)
  · rw [step_call hf hs]
    exact callStep_run (fetchCall_busy (s := { s with sched := rest }) hcc)

/-- No instruction has a transition in a faulted state (R240). -/
theorem exec_faulted (i : Instr) {s : State} {f : Fault} (hf : s.faults = some f) : exec i s = .fault f := by
  cases i with
  | rxc0       => exact takeEvent_faulted hf
  | txc0       => exact takeEvent_faulted hf
  | rxc1       => exact takeEvent_faulted hf
  | txc1       => exact takeEvent_faulted hf
  | reserved w => simp only [exec, execReserved, hf]
  | _          => exact runCommand_faulted hf

/-- Settles O8, from `exec_faulted` and `step_stopped`. -/
theorem faultedMachineStaysStopped : Obligations.FaultedMachineStaysStopped :=
  fun _ _ hf => ⟨fun i => exec_faulted i hf, fun hr => step_stopped ⟨hf, hr⟩⟩

/-- Settles O10, channel by channel. -/
theorem powerOnValues : Obligations.PowerOnValues := by
  refine ⟨fun cfg baud c => ?_, Config.exampleK, ⟨0, 0⟩, by decide, rfl⟩
  cases c <;> exact ⟨rfl, rfl, rfl, rfl, rfl, rfl⟩

/-- A query that only responds, issued on an initialised channel, changes nothing but the trace (R128, R129). -/
theorem runOneStep_respond {i : Instr} {sel : Sel} {c : Chan} {s : State} {k0 : Chan → State → Effect State}
    {st : Status} {v : BitVec 28} (h : canIssueOn s sel c) (hk0 : ∀ q, k0 c (s.setCc q) = .ok ((s.setCc q).respond st v)) :
    runCommand i sel true (oneStep k0) s = .next { s with trace := s.trace ++ [.resp st v] } := by
  have ⟨⟨_, hcc⟩, _⟩ := h
  rw [runCommand_issue h, oneStep, hk0, settle_ok, State.respond, State.emit, State.setCc, State.setCc, hcc]

theorem zextBool_beq_zero (n : Nat) : zextBool (n == 0) = if n = 0 then 1 else 0 := by
  simp [zextBool]

theorem zextBool_not (p : Bool) : zextBool (!p) = if p = false then 1 else 0 := by
  simp [zextBool]

/-- Settles O31: both queries only respond, with the derived status value. -/
theorem statusQueriesReportAndWriteNothing : Obligations.StatusQueriesReportAndWriteNothing := by
  intro sel c s h
  rw [← zextBool_beq_zero, ← zextBool_not]
  exact ⟨runOneStep_respond h fun _ => rfl, runOneStep_respond h fun _ => rfl⟩

end Sys2Proof.Machine
end

section
/-! PROOFS of O3, O21 and O44. A command's encoding decodes to it and its word asks for exactly its payload, so
it can be taken off a byte stream (O3). At its hold a command runs `hold` and nothing else (O21); a choice that is not enabled is
a held command, an idle call context, a vector, or a device step, and each leaves the state as it was (O44). -/

namespace Sys2Proof

/-! ### The operands of a command word -/

@[simp] theorem byteField_commandWord (op : BitVec 4) (ch : Sel) (arg : BitVec 24) :
    byteField (commandWord op ch arg) = arg.extractLsb' 0 8 :=
  argBits_commandWord op ch arg 0 8 (by omega)

@[simp] theorem rateField_commandWord (op : BitVec 4) (ch : Sel) (rate : Rate) :
    rateField (commandWord op ch rate) = rate :=
  argField_commandWord op ch rate

/-- Format B carries its byte (R74). -/
@[simp] theorem extractLsb'_byteArg (b : Byte) : (byteArg b).extractLsb' 0 8 = b := by
  rw [byteArg, BitVec.extractLsb'_setWidth_of_le (by omega), BitVec.extractLsb'_eq_self]

@[simp] theorem callbackField_callbackArg (op : BitVec 4) (ch : Sel) (cb : Option Token) :
    callbackField (commandWord op ch (callbackArg cb)) = cb := by
  cases cb with
  | none => simp [callbackField, callbackArg]
  | some t =>
    have hins : (callbackArg (some t)).getLsbD 8 = true := by simp [callbackArg]
    have htok : (callbackArg (some t)).extractLsb' 0 8 = t := by
      apply BitVec.eq_of_getElem_eq
      intro i hi
      interval_cases i <;> simp [callbackArg]
    simp [callbackField, hins, htok]

/-- `COUNT` has room for the length of a well-formed payload (R75). -/
theorem countField_blockArg (op : BitVec 4) (ch : Sel) {n : Nat} (hn : n < 2 ^ 16) :
    (countField (commandWord op ch (blockArg n))).toNat = n := by
  rw [countField, argBits_commandWord _ _ _ _ _ (by omega), blockArg, BitVec.extractLsb'_setWidth_of_le (by omega),
    BitVec.extractLsb'_eq_self, BitVec.toNat_ofNat, Nat.mod_eq_of_lt hn]

/-! ### The encoding of an instruction -/

theorem encodedShape (i : Instr) : Laws.EncodedShape.Statement i := by
  cases i with
  | init ch         => exact Laws.EncodedShape.init ch
  | setcb ch cb     => exact Laws.EncodedShape.setcb ch cb
  | setbaud ch rate => exact Laws.EncodedShape.setbaud ch rate
  | sendb ch b      => exact Laws.EncodedShape.sendb ch b
  | enqb ch b       => exact Laws.EncodedShape.enqb ch b
  | sendblk ch p    => exact Laws.EncodedShape.sendblk ch p
  | startbuf ch     => exact Laws.EncodedShape.startbuf ch
  | recv ch         => exact Laws.EncodedShape.recv ch
  | flushrx ch      => exact Laws.EncodedShape.flushrx ch
  | rxempty ch      => exact Laws.EncodedShape.rxempty ch
  | txpend ch       => exact Laws.EncodedShape.txpend ch
  | ovfcnt ch       => exact Laws.EncodedShape.ovfcnt ch
  | rxc0            => exact Laws.EncodedShape.rxc0
  | txc0            => exact Laws.EncodedShape.txc0
  | rxc1            => exact Laws.EncodedShape.rxc1
  | txc1            => exact Laws.EncodedShape.txc1
  | reserved w      => exact Laws.EncodedShape.reserved w

/-- Of the words that encode a well-formed command, the illegal ones are those without an operation code (R71, R77). -/
theorem illegal_of_encode_command {i : Instr} {d : Delivery} (hwf : i.wf = true) (henc : encode i = .command d) :
    illegal d.word = (Laws.opcodeOf i).isNone := by
  have hshape := encodedShape i hwf
  simp only [henc] at hshape
  split at hshape
  · rename_i op hop
    obtain ⟨hlegal, -, -⟩ := hshape
    rw [hlegal, hop, Option.isNone_some]
  · rename_i hop
    rw [hshape, hop, Option.isNone_none]

/-- The decoder reads a well-formed command back from its word and payload (R71, R77, R85). -/
theorem decode_of_encode_command {i : Instr} {d : Delivery} (hwf : i.wf = true) (henc : encode i = .command d) :
    decode (.command d) = .ok i := by
  rw [decode, decodeCommand, illegal_of_encode_command hwf henc]
  cases i with
  | sendblk ch p =>
    cases henc
    have hlen : p.length < 2 ^ 16 := of_decide_eq_true hwf
    simp [Laws.opcodeOf, countField_blockArg _ _ hlen]
  | rxc0 => cases henc
  | txc0 => cases henc
  | rxc1 => cases henc
  | txc1 => cases henc
  | _ =>
    cases henc
    simp [Laws.opcodeOf]

/-- The word of a well-formed command asks for as many payload bytes as the command has (R75). -/
theorem payloadLength_of_encode_command {i : Instr} {d : Delivery} (hwf : i.wf = true) (henc : encode i = .command d) :
    payloadLength d.word = d.payload.length := by
  rw [payloadLength, illegal_of_encode_command hwf henc]
  cases i with
  | sendblk ch p =>
    cases henc
    have hlen : p.length < 2 ^ 16 := of_decide_eq_true hwf
    simp [Laws.opcodeOf, countField_blockArg _ _ hlen]
  | rxc0 => cases henc
  | txc0 => cases henc
  | rxc1 => cases henc
  | txc1 => cases henc
  | _ =>
    cases henc
    simp [Laws.opcodeOf]

/-! ### The byte stream -/

/-- A delivery with the payload its word asks for is taken off a byte stream whole (R54, R75). -/
theorem readDelivery_bytes_append {d : Delivery} (rest : List Byte) (h : payloadLength d.word = d.payload.length) :
    readDelivery (d.bytes ++ rest) = .ok (d, rest) := by
  simp [Delivery.bytes, bytesOfWord, readDelivery, h]

/-- Settles O3: the delivery is read off the stream, and it decodes to the command. -/
theorem byteStreamGivesBackCommandAndRest : Obligations.ByteStreamGivesBackCommandAndRest := by
  intro i d rest hwf henc
  rw [decodeBytes, readDelivery_bytes_append rest (payloadLength_of_encode_command hwf henc)]
  simp only [decode_of_encode_command hwf henc]

namespace Machine

/-! ### The hold -/

theorem hold_of_tdr_empty {c : Chan} {s : State} (h : (s.hal.get c).tdr = none) : hold c s = s.advance :=
  if_pos ((halTdrEmpty_iff c s).2 h)

theorem hold_of_tdr_full {c : Chan} {s : State} (h : (s.hal.get c).tdr ≠ none) : hold c s = s :=
  if_neg fun he => h ((halTdrEmpty_iff c s).1 he)

/-- SENDBLK's micro-steps after the payload are the four that start sending (R125). -/
theorem sendblkSteps_after_payload (p : List Byte) (c : Chan) (j : Nat) (L : Locals) (s : State) :
    sendblkSteps p c (p.length + 1 + j) L s = startSending c j L s := by
  rw [sendblkSteps, if_neg (by omega), if_neg (by omega), Nat.add_sub_cancel_left]

/-- At its hold a command does what `hold` does (R58, R122, R124, R125). -/
theorem exec_at_hold {i : Instr} {sel : Sel} {c : Chan} {k : Nat} {L : Locals} {s : State}
    (hhold : holdIndex i = some k) (hsel : commandSel i = some sel) (h : atMicroStep s i sel c k L) :
    exec i s = .next (hold c s) := by
  cases i with
  | sendb ch b =>
    cases hhold
    cases hsel
    exact runCommand_micro h
  | startbuf ch =>
    cases hhold
    cases hsel
    exact runCommand_micro h
  | sendblk ch p =>
    cases hhold
    cases hsel
    exact (runCommand_micro h).trans (congrArg (settle s) (sendblkSteps_after_payload p c 2 L s))
  | _ => cases hhold

/-- Settles O21, from `exec_at_hold`. -/
theorem holdAdvancesOnlyOnAnEmptyTdr : Obligations.HoldAdvancesOnlyOnAnEmptyTdr := by
  intro i sel c k L s hi h
  have hexec : exec i s = .next (hold c s) := by
    obtain ⟨b, rfl, rfl⟩ | ⟨rfl, rfl⟩ | ⟨p, rfl, rfl⟩ := hi <;> exact exec_at_hold rfl rfl h
  obtain ⟨-, hcc, -, -⟩ := h
  refine ⟨fun hempty => ?_, fun hfull => ?_⟩
  · rw [hexec, hold_of_tdr_empty hempty, State.advance_eq s hcc, State.setCc]
  · rw [hexec, hold_of_tdr_full hfull]

/-! ### Which device steps are enabled -/

theorem moveStep_isSome (c : Chan) (s : State) :
    (moveStep c s).isSome = ((s.hal.get c).tdr.isSome && (s.hal.get c).tsr.isNone) := by
  unfold moveStep
  cases (s.hal.get c).tdr <;> cases (s.hal.get c).tsr <;> rfl

theorem shiftStep_isSome (c : Chan) (s : State) : (shiftStep c s).isSome = (s.hal.get c).tsr.isSome := by
  unfold shiftStep
  cases (s.hal.get c).tsr <;> rfl

theorem injTxcStep_isSome (c : Chan) (s : State) : (injTxcStep c s).isSome = decide (s.cfg.envModel = .free) := by
  unfold injTxcStep
  cases s.cfg.envModel <;> rfl

theorem injRxStep_isSome (c : Chan) (b : Byte) (s : State) :
    (injRxStep c b s).isSome = decide (s.cfg.envModel = .free) := by
  unfold injRxStep
  cases s.cfg.envModel <;> rfl

/-- Which choices are enabled does not depend on the choices still to come (R235). -/
theorem enabled_with_sched (x : Choice) (s : State) (rest : List Choice) :
    enabled x { s with sched := rest } = enabled x s := by
  cases x with
  | move c     => simp only [enabled, environmentStep, moveStep_isSome]
  | shift c    => simp only [enabled, environmentStep, shiftStep_isSome]
  | injTxc c   => simp only [enabled, environmentStep, injTxcStep_isSome]
  | injRx c b  => simp only [enabled, environmentStep, injRxStep_isSome]
  | _          => rfl

/-! ### A choice that is not enabled -/

/-- A command that holds stands at its hold, its channel's TDR full (R58). -/
theorem holding_cases {s : State} (h : holding s = true) :
    ∃ i k L c, s.cc = .busy i k L ∧ holdIndex i = some k ∧ commandChan i = some c ∧ (s.hal.get c).tdr ≠ none := by
  unfold holding at h
  split at h
  · cases h
  · rename_i i k L hcc
    simp only [Bool.and_eq_true, decide_eq_true_eq, Option.any_eq_true, Bool.not_eq_true'] at h
    obtain ⟨hhold, c, hc, hfull⟩ := h
    exact ⟨i, k, L, c, hcc, hhold, hc, fun hempty => by simp [halTdrEmpty, hempty] at hfull⟩

/-- A command in progress works on an initialised channel that its selector names (R22, R215). -/
theorem MachineInv.atMicroStep {s : State} {i : Instr} {k : Nat} {L : Locals} {c : Chan} (h : MachineInv s)
    (hf : s.faults = none) (hcc : s.cc = .busy i k L) (hc : commandChan i = some c) :
    ∃ sel, commandSel i = some sel ∧ atMicroStep s i sel c k L := by
  have hl := h.legalAt
  rw [hcc] at hl
  obtain ⟨-, ⟨d, hd, hinit⟩, -⟩ := hl
  obtain rfl : c = d := Option.some.inj (hc.symm.trans hd)
  obtain ⟨sel, hsel, hchan⟩ := Option.bind_eq_some_iff.1 hc
  exact ⟨sel, hsel, hf, hcc, hchan, hinit⟩

/-- The call context has no transition while its command holds, and none while it is idle with nothing to issue
(R58, R211). -/
theorem callStep_not_enabled {s : State} (h : MachineInv s) (hf : s.faults = none) (hx : enabled .call s = false) :
    callStep s = .next s := by
  cases hcc : s.cc with
  | idle =>
    have hcmds : s.cmds = [] := by simpa [enabled, hf, hcc] using hx
    simp only [callStep, fetchCall_idle_empty hcc hcmds]
  | busy i k L =>
    have hholding : holding s = true := by simpa [enabled, hf, hcc] using hx
    obtain ⟨j, l, M, c, hcc', hhold, hc, hfull⟩ := holding_cases hholding
    obtain ⟨sel, hsel, hat⟩ := h.atMicroStep hf hcc' hc
    rw [callStep_run (fetchCall_busy hcc'), exec_at_hold hhold hsel hat, hold_of_tdr_full hfull]

/-- Log entry 7: a choice whose agent has no enabled transition passes. -/
theorem choiceStep_not_enabled {x : Choice} {s : State} (h : MachineInv s) (hf : s.faults = none)
    (hx : enabled x s = false) : choiceStep x s = .next s := by
  cases x with
  | call     => exact callStep_not_enabled h hf hx
  | event ev =>
    have hv : vectorEnabled ev s = false := hx
    simp only [choiceStep, eventStep, hv, Bool.false_eq_true, if_false]
  | reset    => cases hx
  | _        =>
    simp only [enabled, hf, Option.isNone_none, Bool.true_and, Option.isSome_eq_false_iff,
      Option.isNone_iff_eq_none] at hx
    simp only [choiceStep, hx, Option.getD_none]

/-- Settles O44: the step is the choice's transition past the choice, which is not enabled there either. -/
theorem choicesThatAreNotEnabledPass : Obligations.ChoicesThatAreNotEnabledPass := by
  intro s x rest h hf hs hx
  have hreset : x ≠ .reset := by
    rintro rfl
    cases hx
  have hrest : MachineInv { s with sched := rest } := h
  rw [step_cons hs hreset hf]
  exact choiceStep_not_enabled hrest hf ((enabled_with_sched x s rest).trans hx)

end Machine
end Sys2Proof
end

section
/-! PROOFS of O1, O2, O4, O5, O7, O12, O13 and O33. A command word is its four fields, so a legal word is put together
again from the operands its format reads (O2), and a row of the opcode table is read field by field (O4). -/

namespace Sys2Proof

/-! ### O1, O5: reading an encoding back -/

/-- Settles O1: a command is read back from its word and payload, an event from its vector. -/
theorem decodeOfEncodeIsTheInstruction : Obligations.DecodeOfEncodeIsTheInstruction := by
  intro i hwf
  cases henc : encode i with
  | command d => exact decode_of_encode_command hwf henc
  | vector ev =>
    have hshape := encodedShape i hwf
    simp only [henc] at hshape
    rw [decode, hshape]

/-- Settles O5, by running the decoder on each word. -/
theorem specExampleWordsDecode : Obligations.SpecExampleWordsDecode := by
  unfold Obligations.SpecExampleWordsDecode
  decide

/-! ### A word is its fields (R70) -/

theorem append_fields (w : Word) :
    opField w ++ (rsvField w ++ (chField w ++ argField w : BitVec 26) : BitVec 28) = w := by
  have hlow : (chField w ++ argField w : BitVec 26) = w.extractLsb' 0 26 :=
    BitVec.extractLsb'_append_extractLsb'_eq_extractLsb' rfl
  have hmid : (rsvField w ++ w.extractLsb' 0 26 : BitVec 28) = w.extractLsb' 0 28 :=
    BitVec.extractLsb'_append_extractLsb'_eq_extractLsb' rfl
  have hall : (opField w ++ w.extractLsb' 0 28 : Word) = w.extractLsb' 0 32 :=
    BitVec.extractLsb'_append_extractLsb'_eq_extractLsb' rfl
  rw [hlow, hmid, hall, BitVec.extractLsb'_eq_self]

/-- Two words are equal exactly when their fields are. -/
theorem word_eq_iff {v w : Word} :
    v = w ↔ opField v = opField w ∧ rsvField v = rsvField w ∧ chField v = chField w ∧ argField v = argField w := by
  refine ⟨fun h => h ▸ ⟨rfl, rfl, rfl, rfl⟩, fun ⟨hop, hrsv, hch, harg⟩ => ?_⟩
  rw [← append_fields v, ← append_fields w, hop, hrsv, hch, harg]

/-- A word with `RSV = 0` is the command word of its other three fields (R70, R73). -/
theorem commandWord_fields {w : Word} (hrsv : rsvField w = 0) :
    commandWord (opField w) (chField w) (argField w) = w :=
  word_eq_iff.2 ⟨by simp, by simp [hrsv], by simp, by simp⟩

/-! ### The operand field put together from what its format reads (R74) -/

/-- An operand field whose bits from `k` up are 0 is its low `k` bits, widened. -/
theorem setWidth_eq_argField {w : Word} (n k : Nat) (hnk : n + k = 24) (hhigh : w.extractLsb' k n = 0) :
    (w.extractLsb' 0 k).setWidth 24 = argField w := by
  apply BitVec.eq_of_getLsbD_eq
  intro i hi
  by_cases hik : i < k
  · simp [argField, hik]
  · have hbit : w.getLsbD i = false := by
      have := congrArg (·.getLsbD (i - k)) hhigh
      simpa [show i - k < n by omega, show k + (i - k) = i by omega] using this
    simp [argField, hik, hbit]

/-- Format K's operands are its bits 8 to 0, where `INS = 0` forces `TOK = 0`. -/
theorem callbackArg_callbackField {w : Word} (hclear : insField w = true ∨ byteField w = 0) :
    callbackArg (callbackField w) = (w.extractLsb' 0 9).setWidth 24 := by
  have hins : w.extractLsb' 8 1 = BitVec.ofBool (insField w) := by
    apply BitVec.eq_of_getElem_eq
    simp [insField]
  have hsplit : (w.extractLsb' 8 1 ++ byteField w : BitVec 9) = w.extractLsb' 0 9 :=
    BitVec.extractLsb'_append_extractLsb'_eq_extractLsb' rfl
  rw [← hsplit, hins, BitVec.setWidth_append_eq_shiftLeft_setWidth_or]
  cases hi : insField w with
  | true  => simp [callbackField, callbackArg, hi]
  | false => simp [callbackField, callbackArg, hi, hclear.resolve_left (by simp [hi])]

/-- `ARG` as format `f` writes it, from the operands it reads. -/
def formatArg (f : Format) (w : Word) : BitVec 24 :=
  match f with
  | .none     => 0
  | .byte     => byteArg (byteField w)
  | .callback => callbackArg (callbackField w)
  | .rate     => rateField w
  | .block    => blockArg (countField w).toNat

/-- An `ARG` its format allows holds nothing but the operands. -/
theorem formatArg_of_allowed {f : Format} {w : Word} (h : argAllowed f w = true) : formatArg f w = argField w := by
  cases f with
  | none => exact (eq_of_beq h).symm
  | byte => exact setWidth_eq_argField 16 8 rfl (eq_of_beq h)
  | callback =>
    simp only [argAllowed, Bool.and_eq_true, Bool.or_eq_true, beq_iff_eq] at h
    obtain ⟨hhigh, hclear⟩ := h
    exact (callbackArg_callbackField hclear).trans (setWidth_eq_argField 15 9 rfl hhigh)
  | rate => rfl
  | block =>
    rw [formatArg, blockArg, BitVec.ofNat_toNat, BitVec.setWidth_eq]
    exact setWidth_eq_argField 8 16 rfl (eq_of_beq h)

/-! ### O2: a code is the encoding of what it decodes to -/

theorem rsvField_of_legal {w : Word} (h : ¬ illegal w = true) : rsvField w = 0 := by
  unfold illegal at h
  split at h
  · exact absurd rfl h
  · simp only [Bool.or_eq_true, bne_iff_ne, not_or, not_not] at h
    exact h.1

/-- A legal word is the command word of its operation code, its selector and its operands (R71, R74). -/
theorem commandWord_of_legal {w : Word} (hlegal : ¬ illegal w = true) {n : Nat} {f : Format}
    (hop : (opField w).toNat = n) (hf : formatOf (BitVec.ofNat 4 n) = some f) :
    commandWord (BitVec.ofNat 4 n) (chField w) (formatArg f w) = w := by
  subst hop
  rw [BitVec.ofNat_toNat, BitVec.setWidth_eq] at hf ⊢
  obtain ⟨g, hg, harg⟩ := Machine.legal_word hlegal
  obtain rfl : g = f := Option.some.inj (hg.symm.trans hf)
  rw [formatArg_of_allowed harg, commandWord_fields (rsvField_of_legal hlegal)]

/-- The encoding of `i` is a command with word `w`; a SENDBLK's payload is `p`. -/
def SpelledBy (w : Word) (p : List Byte) (i : Instr) : Prop :=
  ∃ q, encode i = .command ⟨w, q⟩ ∧ ((∃ ch r, i = .sendblk ch r) → q = p)

theorem spelledBy_of_encode {w : Word} {p : List Byte} {i : Instr} (henc : encode i = .command ⟨w, []⟩)
    (hi : ∀ ch r, i ≠ .sendblk ch r) : SpelledBy w p i :=
  ⟨[], henc, fun ⟨ch, r, h⟩ => absurd h (hi ch r)⟩

/-- A command other than SENDBLK, encoded from the fields of a legal word, is spelled by that word. -/
theorem spelledBy_of_legal {w : Word} {p : List Byte} {i : Instr} (hlegal : ¬ illegal w = true) {n : Nat} (f : Format)
    (hop : (opField w).toNat = n) (hf : formatOf (BitVec.ofNat 4 n) = some f)
    (henc : encode i = .command ⟨commandWord (BitVec.ofNat 4 n) (chField w) (formatArg f w), []⟩)
    (hi : ∀ ch r, i ≠ .sendblk ch r) : SpelledBy w p i :=
  spelledBy_of_encode (commandWord_of_legal hlegal hop hf ▸ henc) hi

/-- A command is spelled by the word it is decoded from (R85). -/
theorem spelledBy_of_decodeCommand {w : Word} {p : List Byte} {i : Instr} (h : decodeCommand w p = .ok i) :
    SpelledBy w p i := by
  unfold decodeCommand at h
  split at h
  · cases h
    exact spelledBy_of_encode rfl nofun
  · rename_i hlegal
    split at h
    case h_2 hop => cases h; exact spelledBy_of_legal hlegal .callback hop rfl rfl nofun
    case h_3 hop => cases h; exact spelledBy_of_legal hlegal .rate hop rfl rfl nofun
    case h_4 hop => cases h; exact spelledBy_of_legal hlegal .byte hop rfl rfl nofun
    case h_5 hop => cases h; exact spelledBy_of_legal hlegal .byte hop rfl rfl nofun
    case h_6 hop =>
      split at h
      · rename_i hlen
        cases h
        have hw := commandWord_of_legal hlegal (f := .block) hop rfl
        rw [formatArg, ← hlen] at hw
        exact ⟨p, congrArg (fun v => Code.command ⟨v, p⟩) hw, fun _ => rfl⟩
      · cases h
    case h_13 => cases h; exact spelledBy_of_encode rfl nofun
    all_goals
      rename_i hop
      cases h
      exact spelledBy_of_legal hlegal .none hop rfl rfl nofun

/-- Settles O2, by the kind of code. -/
theorem decodedInstructionIsSpelledByItsCode : Obligations.DecodedInstructionIsSpelledByItsCode := by
  intro c i h
  cases c with
  | command d => exact ⟨Machine.decodeCommand_wf h, spelledBy_of_decodeCommand h⟩
  | vector ev =>
    cases h
    obtain rfl | rfl | rfl | rfl := Machine.vector_cases ev <;> exact ⟨rfl, rfl⟩

/-! ### O4: the opcode table, row by row -/

/-- The bits of `ARG` that format `f` fixes at 0 whatever the others are: those above its operands (R74). -/
def fixedArg : Format → BitVec 24
  | .none     => BitVec.allOnes 24
  | .byte     => BitVec.allOnes 16 ++ 0#8
  | .callback => BitVec.allOnes 15 ++ 0#9
  | .rate     => 0
  | .block    => BitVec.allOnes 8 ++ 0#16

/-- The bits a row of format `f` compares: `OP`, `RSV` and the fixed bits of `ARG`. -/
def rowMask (f : Format) : Word := commandWord 0xF 0 (fixedArg f) ||| 0x0C000000

/-- The table's row of operation code `op` with format `f`. -/
def tableRow (op : BitVec 4) (f : Format) : OpcodeRow := ⟨commandWord op 0 0, rowMask f⟩

/-- The table has one row for each operation code that has a format, in the order of the codes (R71, R77). -/
theorem opcodeRows_eq :
    opcodeRows = (List.finRange 16).filterMap fun n => (formatOf (.ofFin n)).map (tableRow (.ofFin n)) := by
  decide

theorem rowMask_fields (f : Format) :
    opField (rowMask f) = BitVec.allOnes 4 ∧ rsvField (rowMask f) = BitVec.allOnes 2 ∧
    chField (rowMask f) = 0 ∧ argField (rowMask f) = fixedArg f := by
  cases f <;> decide

theorem and_fields (v w : Word) :
    opField (v &&& w) = opField v &&& opField w ∧ rsvField (v &&& w) = rsvField v &&& rsvField w ∧
    chField (v &&& w) = chField v &&& chField w ∧ argField (v &&& w) = argField v &&& argField w :=
  ⟨BitVec.extractLsb'_and, BitVec.extractLsb'_and, BitVec.extractLsb'_and, BitVec.extractLsb'_and⟩

/-- A word is of a row exactly when it has the row's operation code, `RSV = 0`, and 0 in the fixed bits. -/
theorem and_tableRow_mask_iff (w : Word) (op : BitVec 4) (f : Format) :
    w &&& (tableRow op f).mask = (tableRow op f).pat ↔
      opField w = op ∧ rsvField w = 0 ∧ argField w &&& fixedArg f = 0 := by
  obtain ⟨hop, hrsv, hch, harg⟩ := and_fields w (rowMask f)
  obtain ⟨mop, mrsv, mch, marg⟩ := rowMask_fields f
  rw [tableRow, word_eq_iff, hop, hrsv, hch, harg, mop, mrsv, mch, marg, BitVec.and_allOnes, BitVec.and_allOnes]
  simp

/-- A word is in the table exactly when its operation code has a format, `RSV = 0`, and the fixed bits are 0. -/
theorem inTable_iff (w : Word) :
    inTable w = true ↔ ∃ f, formatOf (opField w) = some f ∧ rsvField w = 0 ∧ argField w &&& fixedArg f = 0 := by
  simp only [inTable, opcodeRows_eq, List.any_eq_true, List.mem_filterMap, List.mem_finRange, true_and,
    Option.map_eq_some_iff, decide_eq_true_eq]
  constructor
  · rintro ⟨_, ⟨n, f, hf, rfl⟩, hw⟩
    obtain ⟨hop, hrest⟩ := (and_tableRow_mask_iff w _ f).1 hw
    exact ⟨f, hop ▸ hf, hrest⟩
  · rintro ⟨f, hf, hrest⟩
    exact ⟨_, ⟨(opField w).toFin, f, hf, rfl⟩, (and_tableRow_mask_iff w _ f).2 ⟨rfl, hrest⟩⟩

/-- What the table says of format `f` in a note, beside its `match` and `mask`. -/
def formatNote (f : Format) (w : Word) : Bool :=
  match f with
  | .callback => !insField w && byteField w != 0
  | .rate     => rateField w == 0
  | _         => false

/-- SETCB alone has format K, and SETBAUD alone format R (R71). -/
theorem noted_codes : ∀ op : BitVec 4,
    (op == 2) = decide (formatOf op = some .callback) ∧ (op == 3) = decide (formatOf op = some .rate) := by
  decide

theorem tableNote_eq {w : Word} {f : Format} (hf : formatOf (opField w) = some f) : tableNote w = formatNote f w := by
  obtain ⟨hcallback, hrate⟩ := noted_codes (opField w)
  rw [tableNote, hcallback, hrate, hf]
  cases f <;> simp [formatNote]

/-- `ARG` masked from bit `k` up is 0 exactly when its bits from there are. -/
theorem argBits_and_high_eq_zero_iff (w : Word) (n k : Nat) :
    w.extractLsb' 0 (n + k) &&& (BitVec.allOnes n ++ 0#k) = 0 ↔ w.extractLsb' k n = 0 := by
  have hsplit : w.extractLsb' k n ++ w.extractLsb' 0 k = w.extractLsb' 0 (n + k) :=
    BitVec.extractLsb'_append_extractLsb'_eq_extractLsb' (Nat.zero_add k).symm
  have hzero : (0 : BitVec (n + k)) = 0#n ++ 0#k := BitVec.zero_append_zero.symm
  rw [← hsplit, BitVec.and_append, BitVec.and_allOnes, BitVec.and_zero, hzero]
  exact BitVec.append_left_inj _

/-- A format's constraint on `ARG` is the table's: 0 in the fixed bits, and the note kept (R74). -/
theorem argAllowed_iff (f : Format) (w : Word) :
    argAllowed f w = true ↔ argField w &&& fixedArg f = 0 ∧ formatNote f w = false := by
  cases f with
  | none =>
    have hfixed : argField w &&& fixedArg .none = argField w := BitVec.and_allOnes
    simp [argAllowed, formatNote, hfixed]
  | byte =>
    have hfixed : argField w &&& fixedArg .byte = 0 ↔ w.extractLsb' 8 16 = 0 :=
      argBits_and_high_eq_zero_iff w 16 8
    rw [hfixed]
    simp [argAllowed, formatNote]
  | callback =>
    have hfixed : argField w &&& fixedArg .callback = 0 ↔ w.extractLsb' 9 15 = 0 :=
      argBits_and_high_eq_zero_iff w 15 9
    rw [hfixed]
    cases hins : insField w <;> simp [argAllowed, formatNote, hins]
  | rate =>
    have hfixed : argField w &&& fixedArg .rate = 0 := BitVec.and_zero
    simp [argAllowed, formatNote, hfixed]
  | block =>
    have hfixed : argField w &&& fixedArg .block = 0 ↔ w.extractLsb' 16 8 = 0 :=
      argBits_and_high_eq_zero_iff w 8 16
    rw [hfixed]
    simp [argAllowed, formatNote]

/-- A word is legal exactly when it is in a row and breaks no note (R77). -/
theorem illegal_eq_false_iff (w : Word) : illegal w = false ↔ inTable w = true ∧ tableNote w = false := by
  rw [inTable_iff]
  cases hf : formatOf (opField w) with
  | none => simp [illegal, hf]
  | some f => simp [illegal, hf, argAllowed_iff, tableNote_eq hf, and_assoc]

/-- Settles O4. The rows of two operation codes ask for two values of `OP`. -/
theorem opcodeTableAgreesWithDecoder : Obligations.OpcodeTableAgreesWithDecoder := by
  refine ⟨fun w => ?_, ?_⟩
  · exact Bool.not_inj (Bool.eq_iff_iff.2 (by simpa using illegal_eq_false_iff w))
  · rw [opcodeRows_eq, List.pairwise_filterMap]
    refine (List.nodup_finRange 16).imp fun {m n} hne r hr r' hr' w ⟨hw, hw'⟩ => hne ?_
    obtain ⟨f, -, rfl⟩ := Option.map_eq_some_iff.1 hr
    obtain ⟨g, -, rfl⟩ := Option.map_eq_some_iff.1 hr'
    obtain ⟨hop, -⟩ := (and_tableRow_mask_iff w _ f).1 hw
    obtain ⟨hop', -⟩ := (and_tableRow_mask_iff w _ g).1 hw'
    exact congrArg BitVec.toFin (hop.symm.trans hop')

namespace Machine

/-! ### O7: the step of an event vector -/

theorem handlerEnabled_iff {s : State} {c : Chan} {kind : Kind} (hf : s.faults = none) :
    handlerEnabled s c kind = true ↔
      (s.hal.get c).pending kind = true ∧ (s.hal.get c).enable kind = true ∧ s.refused = false := by
  simp [handlerEnabled, hf, and_assoc]

/-- The choice of an event vector, taken with no fault recorded. -/
theorem step_event {s : State} {rest : List Choice} {ev : BitVec 2} (hf : s.faults = none)
    (hs : s.sched = .event ev :: rest) :
    step s = if vectorEnabled ev s then exec (decodeVector ev) { s with sched := rest }
      else .next { s with sched := rest } :=
  step_cons hs nofun hf

/-- Settles O7: each row's source and handler are those its vector names, and `step_event` runs them. -/
theorem stepRunsExactlyTheEnabledHandler : Obligations.StepRunsExactlyTheEnabledHandler := by
  intro s rest ev c kind i hmem hf hs
  have hvector : vectorChan ev = c ∧ vectorKind ev = kind ∧ decodeVector ev = i := by
    simp only [List.mem_cons, List.not_mem_nil, or_false, Prod.mk.injEq] at hmem
    obtain ⟨rfl, rfl, rfl, rfl⟩ | ⟨rfl, rfl, rfl, rfl⟩ | ⟨rfl, rfl, rfl, rfl⟩ | ⟨rfl, rfl, rfl, rfl⟩ := hmem <;>
      exact ⟨rfl, rfl, rfl⟩
  obtain ⟨rfl, rfl, rfl⟩ := hvector
  rw [step_event hf hs, vectorEnabled, ← handlerEnabled_iff hf]
  exact ⟨fun h => if_pos h, fun h => if_neg h⟩

/-! ### O12, O13: the checks at issue -/

/-- From an idle call context a response adds itself to the trace and changes nothing else (R82). -/
theorem respond_of_canIssue {s : State} (h : canIssue s) (st : Status) (v : BitVec 28) :
    s.respond st v = { s with trace := s.trace ++ [.resp st v] } := by
  obtain ⟨-, hcc⟩ := h
  rw [State.respond, State.emit, State.setCc, hcc]

theorem execReserved_issue {s : State} (h : canIssue s) (w : Word) :
    execReserved w s = .next (s.respond .errIllegal 0) := by
  obtain ⟨hf, hcc⟩ := h
  simp only [execReserved, hf, hcc, progressOf_idle]

/-- Settles O12: the decoder and the payload's length look at `illegal` first, and the meaning responds at once. -/
theorem illegalWordRespondsErrIllegal : Obligations.IllegalWordRespondsErrIllegal := by
  intro w p s hw h
  refine ⟨?_, ?_, ?_⟩
  · rw [decode, decodeCommand, if_pos hw]
  · simp [payloadLength, hw]
  · rw [exec, execReserved_issue h, respond_of_canIssue h]

theorem selChan_out_of_range {sel : Sel} (h : sel = 2 ∨ sel = 3) : selChan sel = none := by
  obtain rfl | rfl := h <;> rfl

/-- Every command checks its selector before anything else (R72, R210). -/
theorem exec_badChannel {i : Instr} {sel : Sel} {s : State} (hsel : commandSel i = some sel) (hc : selChan sel = none)
    (h : canIssue s) : exec i s = .next (s.respond .errChannel 0) := by
  cases i with
  | rxc0 => cases hsel
  | txc0 => cases hsel
  | rxc1 => cases hsel
  | txc1 => cases hsel
  | reserved w => cases hsel
  | _ => cases hsel; exact runCommand_badChannel h hc

/-- Settles O13, from `exec_badChannel`. -/
theorem selectorOutOfRangeRespondsErrChannel : Obligations.SelectorOutOfRangeRespondsErrChannel := by
  refine ⟨rfl, rfl, fun i sel s hi hsel h => ?_⟩
  rw [exec_badChannel hi (selChan_out_of_range hsel) h, respond_of_canIssue h]

/-! ### O33: the words of RECV's responses -/

theorem responseWord_ok_zextByte (b : Byte) : responseWord .ok (zextByte b) = b.setWidth 32 := by
  simp [responseWord, Status.code, zextByte]

/-- RECV completes with no data or with the byte it pops (R83, R126). -/
theorem recvStep_cases (c : Chan) (s : State) :
    recvStep c s = .ok (s.respond .noData 0) ∨
    ∃ b t, popRx c s = .ok (b, t) ∧ recvStep c s = .ok (t.respond .ok (zextByte b)) := by
  unfold recvStep
  split
  · rename_i h
    obtain ⟨-, hlen⟩ := h
    have hpop := popRx_some c s (Nat.ne_of_gt hlen)
    exact .inr ⟨_, _, hpop, by rw [hpop]; rfl⟩
  · exact .inl rfl

/-- A pop emits nothing. -/
theorem popRx_trace {c : Chan} {s t : State} {b : Byte} (h : popRx c s = .ok (b, t)) : t.trace = s.trace := by
  unfold popRx at h
  split at h
  · cases h
  · cases h
    rfl

/-- Settles O33, over what RECV's only micro-step can do (`recvStep_cases`). -/
theorem noDataWordIsNoByteWord : Obligations.NoDataWordIsNoByteWord := by
  refine ⟨fun sel c s h => ?_, fun b => ?_⟩
  · have hexec : exec (.recv sel) s = settle s (recvStep c (s.setCc (.busy (.recv sel) 0 .start))) := runCommand_issue h
    obtain hstep | ⟨b, t, hpop, hstep⟩ := recvStep_cases c (s.setCc (.busy (.recv sel) 0 .start))
    · exact ⟨_, .noData, 0, by rw [hexec, hstep, settle_ok], rfl, .inl ⟨rfl, rfl, by decide⟩⟩
    · refine ⟨_, .ok, zextByte b, by rw [hexec, hstep, settle_ok], ?_, .inr ⟨b, rfl, rfl, responseWord_ok_zextByte b⟩⟩
      rw [State.respond_trace, popRx_trace hpop, State.setCc_trace]
  · have hword : (responseWord .ok (zextByte b)).toNat = b.toNat := by
      rw [responseWord_ok_zextByte, BitVec.toNat_setWidth, Nat.mod_eq_of_lt (by omega)]
    refine ⟨hword, fun heq => ?_⟩
    have hno : (responseWord .noData 0).toNat = 0x20000000 := by decide
    rw [heq, hno] at hword
    omega

end Machine
end Sys2Proof
end

section
/-! PROOFS of O24, O27 and O46. The FIFO law is one induction over the sequence, each push and each pop taken with its
law of the queue, and the occupancy law is the length of what it says (O46). At the facade's pop a command
runs `popForSending` and nothing else (O24); at a payload byte SENDBLK runs one push (O27). -/

namespace Sys2Proof.Machine

/-! ### O46: sequences of ring primitives -/

namespace Ring

@[simp] theorem queue_length (r : Ring) : r.queue.length = r.len := by simp [queue]

/-- The bytes a push adds to the queue: the byte when the push succeeds, else none (R104). -/
theorem wf.queue_pushBack_append {r : Ring} (h : r.wf) (b : Byte) :
    (r.pushBack b).2.queue = r.queue ++ (if (r.pushBack b).1 then [b] else []).map some := by
  by_cases hroom : r.len < r.cap
  · rw [h.queue_pushBack hroom, pushBack_room r b hroom]
    rfl
  · rw [pushBack_full r b (by omega)]
    simp

end Ring

/-- What a sequence that ends in `x` made of the ring `r`: the bytes through it kept their order, and the ring its form
and capacity. -/
structure RingRun.IsFifo (r : Ring) (x : RingRun) : Prop where
  order : r.queue ++ x.accepted.map some = x.popped.map some ++ x.ring.queue
  wf    : x.ring.wf
  cap   : x.ring.cap = r.cap

/-- R109 from R108: both sides of the order are equally long. -/
theorem RingRun.IsFifo.occupancy {r : Ring} {x : RingRun} (h : x.IsFifo r) :
    x.ring.len + x.popped.length = r.len + x.accepted.length := by
  have hlen := congrArg List.length h.order
  simp only [List.length_append, List.length_map, Ring.queue_length] at hlen
  omega

/-- A push in front of a sequence (R104). -/
theorem RingRun.IsFifo.push {r : Ring} {x : RingRun} {b : Byte} (hr : r.wf) (h : x.IsFifo (r.pushBack b).2) :
    RingRun.IsFifo r { x with accepted := (if (r.pushBack b).1 then [b] else []) ++ x.accepted } where
  order := by rw [List.map_append, ← List.append_assoc, ← hr.queue_pushBack_append, h.order]
  wf    := h.wf
  cap   := h.cap.trans (r.pushBack_cap b)

/-- A pop in front of a sequence (R105). -/
theorem RingRun.IsFifo.pop {r r' : Ring} {x : RingRun} {free b : Byte} (hr : r.wf)
    (hpop : r.popFront free = some (b, r')) (h : x.IsFifo r') :
    RingRun.IsFifo r { x with popped := b :: x.popped } where
  order := by rw [hr.queue_popFront hpop, List.cons_append, h.order, List.map_cons, List.cons_append]
  wf    := h.wf
  cap   := h.cap.trans (Ring.popFront_cap hpop)

theorem ringRun_isFifo {free : Byte} {ops : List RingOp} {r : Ring} {x : RingRun} (hr : r.wf)
    (h : ringRun free ops r = some x) : x.IsFifo r := by
  induction ops generalizing r x with
  | nil =>
    cases h
    exact ⟨List.append_nil _, hr, rfl⟩
  | cons op ops ih =>
    cases op with
    | push b =>
      obtain ⟨y, hy, rfl⟩ := Option.map_eq_some_iff.1 h
      exact (ih (hr.pushBack b) hy).push hr
    | pop =>
      obtain ⟨⟨b, r'⟩, hpop, hrest⟩ := Option.bind_eq_some_iff.1 h
      obtain ⟨y, hy, rfl⟩ := Option.map_eq_some_iff.1 hrest
      exact (ih (hr.popFront hpop) hy).pop hr hpop

/-- Settles O46: the order by induction over the sequence (`ringRun_isFifo`), the occupancy as its length. -/
theorem ringIsFirstInFirstOut : Obligations.RingIsFirstInFirstOut := by
  intro free ops r x hr h
  have hx := ringRun_isFifo hr h
  obtain ⟨hle, -⟩ := hx.wf
  exact ⟨hx.order, hx.occupancy, hle, hx.cap⟩

/-! ### O24: the facade's pop -/

/-- New locals and the next micro-step, one after the other (R22). -/
theorem State.advance_setLocals_eq {s : State} {i : Instr} {k : Nat} {L : Locals} (M : Locals)
    (h : s.cc = .busy i k L) : (s.setLocals M).advance = s.setCc (.busy i (k + 1) M) := by
  rw [State.setLocals_eq s h, State.advance_setCc_busy]

theorem popForSending_empty {c : Chan} (L : Locals) {s : State} (h : (s.tx.get c).len = 0) :
    popForSending c L s = raise .popEmpty s := by
  rw [popForSending, popTx_empty c s h]
  rfl

theorem popForSending_some {i : Instr} {c : Chan} {k : Nat} {L : Locals} {s : State} (hcc : s.cc = .busy i k L)
    (h : (s.tx.get c).len ≠ 0) :
    popForSending c L s = .ok { s with
      tx := s.tx.set c { s.tx.get c with
        head := ((s.tx.get c).head + 1) % (s.tx.get c).cap, len := (s.tx.get c).len - 1 }
      cc := .busy i (k + 1) { L with b := some ((s.tx.get c).front (Config.freeByte s.draws)) }
      draws := s.draws + (s.tx.get c).popDraws } := by
  rw [popForSending, popTx_some c s h]
  exact congrArg Except.ok (State.advance_setLocals_eq _ hcc)

/-- At its pop a command runs `popForSending` (R124 k1, R125 k(n+2)). -/
theorem exec_at_pop {i : Instr} {sel : Sel} {c : Chan} {k : Nat} {L : Locals} {s : State}
    (hi : (i = .startbuf sel ∧ k = 1) ∨ (∃ p, i = .sendblk sel p ∧ k = p.length + 2))
    (h : atMicroStep s i sel c k L) : exec i s = settle s (popForSending c L s) := by
  obtain ⟨rfl, rfl⟩ | ⟨p, rfl, rfl⟩ := hi
  · exact runCommand_micro h
  · exact (runCommand_micro h).trans (congrArg (settle s) (sendblkSteps_after_payload p c 1 L s))

namespace Ring

theorem front_of_read {r : Ring} {x : Byte} (h : Memory.read r.store r.head = some x) (free : Byte) :
    r.front free = x := by
  rw [front, h, Option.getD_some]

theorem popDraws_of_read {r : Ring} {x : Byte} (h : Memory.read r.store r.head = some x) : r.popDraws = 0 := by
  rw [popDraws, h]
  rfl

end Ring

/-- Settles O24, from `exec_at_pop` and what `popForSending` does on an empty ring and on a ring with a byte. -/
theorem facadePopOrPopEmpty : Obligations.FacadePopOrPopEmpty := by
  intro i sel c k L s hi h
  have hexec := exec_at_pop hi h
  obtain ⟨-, hcc, -, -⟩ := h
  refine ⟨fun hempty => ?_, fun hlen => ?_⟩
  · rw [hexec, popForSending_empty L hempty]
    rfl
  · rw [popForSending_some hcc hlen, settle_ok] at hexec
    refine ⟨_, _, hexec, fun x hx => ⟨Ring.front_of_read hx _, ?_⟩⟩
    rw [Ring.popDraws_of_read hx, Nat.add_zero]

/-! ### O27: SENDBLK's payload -/

/-- A payload byte is pushed, whether there is room for it or not, and the command goes on. -/
theorem sendblkPush_byte {i : Instr} {p : List Byte} {c : Chan} {k : Nat} {L : Locals} {s : State} {b : Byte}
    (hcc : s.cc = .busy i k L) (hb : p[L.i]? = some b) :
    sendblkPush p c L s = .ok { s with
      tx := s.tx.set c ((s.tx.get c).pushBack b).2, cc := .busy i (k + 1) { L with i := L.i + 1 } } := by
  rw [sendblkPush, show payloadByte p L.i = some b from hb]
  exact congrArg Except.ok (State.advance_setLocals_eq _ hcc)

/-- At a payload byte SENDBLK puts the ring after the push in place and goes on (R125 k1 to kn). -/
theorem exec_sendblk_at_payload {sel : Sel} {p : List Byte} {c : Chan} {k : Nat} {L : Locals} {s : State} {b : Byte}
    (h : atMicroStep s (.sendblk sel p) sel c k L) (h1 : 1 ≤ k) (hk : k ≤ p.length) (hb : p[L.i]? = some b) :
    exec (.sendblk sel p) s = .next { s with
      tx := s.tx.set c ((s.tx.get c).pushBack b).2, cc := .busy (.sendblk sel p) (k + 1) { L with i := L.i + 1 } } := by
  have hexec : exec (.sendblk sel p) s = settle s (sendblkSteps p c k L s) := runCommand_micro h
  obtain ⟨-, hcc, -, -⟩ := h
  rw [hexec, sendblkSteps, if_neg (by omega), if_pos hk, sendblkPush_byte hcc hb, settle_ok]

/-- After the payload SENDBLK sets `active` (R125 k(n+1)). -/
theorem exec_sendblk_after_payload {sel : Sel} {p : List Byte} {c : Chan} {L : Locals} {s : State}
    (h : atMicroStep s (.sendblk sel p) sel c (p.length + 1) L) :
    exec (.sendblk sel p) s = .next ((s.setActive c true).setCc (.busy (.sendblk sel p) (p.length + 1 + 1) L)) := by
  have hexec : exec (.sendblk sel p) s = .next (s.setActive c true).advance :=
    (runCommand_micro h).trans (congrArg (settle s) (sendblkSteps_after_payload p c 0 L s))
  obtain ⟨-, hcc, -, -⟩ := h
  rw [hexec, State.advance_eq (s.setActive c true) hcc]

/-- Settles O27, from what SENDBLK does at a payload byte and after the last one, and the laws of push. -/
theorem sendblkCopiesOneByteAtATime : Obligations.SendblkCopiesOneByteAtATime := by
  intro sel c p k L s h
  refine ⟨fun b h1 hk hb => ?_, ?_⟩
  · have hexec := exec_sendblk_at_payload h h1 hk hb
    refine ⟨fun hroom => ⟨_, hexec, ?_⟩, fun hfull => ?_⟩
    · rw [Ring.pushBack_room _ b hroom]
      exact ⟨rfl, rfl, rfl, rfl, Memory.read_write_same _ _ _, fun a ha => Memory.read_write_other _ _ ha⟩
    · rw [hexec, Ring.pushBack_full _ b hfull, PerChan.set_get]
  · rintro rfl
    exact exec_sendblk_after_payload h

end Sys2Proof.Machine
end

section
/-! PROOFS of O17, O19, O20, O22, O23, O25, O26, O28, O29, O30 and O32: the facade's commands. A command of one
micro-step updates the state and responds. SENDB, STARTBUF and SENDBLK end in the facade's write (O22). STARTBUF and
SENDBLK share the transitions from `active <- true` on, so one lemma sends the oldest byte for both (O25, O28), and
SENDBLK's copying is an induction over the payload still to push (O28). -/

namespace Sys2Proof.Machine

/-! ### Commands of one micro-step -/

/-- A command of one micro-step, issued on an initialised channel: its update `t`, and the response. -/
theorem runOneStep_update {i : Instr} {sel : Sel} {c : Chan} {s t : State} {k0 : Chan → State → Effect State}
    {st : Status} {v : BitVec 28} (h : canIssueOn s sel c) (ht : t.cc = s.cc)
    (hk0 : ∀ q, k0 c (s.setCc q) = .ok ((t.setCc q).respond st v)) :
    runCommand i sel true (oneStep k0) s = .next { t with trace := t.trace ++ [.resp st v] } := by
  have ⟨⟨_, hcc⟩, _⟩ := h
  rw [runCommand_issue h, oneStep, hk0, settle_ok, State.respond, State.emit, State.setCc, State.setCc, ht.trans hcc]

/-- Settles O17: the only update is of the callback slot. -/
theorem setcbWritesTheCallbackSlot : Obligations.SetcbWritesTheCallbackSlot := by
  intro sel c cb s h
  exact runOneStep_update (t := s.setCh c { s.ch.get c with cb := cb }) h rfl fun _ => rfl

theorem exec_enqb {sel : Sel} {c : Chan} {s : State} (h : canIssueOn s sel c) (b : Byte) :
    exec (.enqb sel b) s = .next { s with
      tx := s.tx.set c ((s.tx.get c).pushBack b).2, trace := s.trace ++ [.resp .ok 0] } :=
  runOneStep_update (t := pushTx c b s) h rfl fun _ => rfl

/-- Settles O19, from `exec_enqb` and the laws of push. -/
theorem enqbStoresOrDropsItsByte : Obligations.EnqbStoresOrDropsItsByte := by
  intro sel c b s h
  refine ⟨fun hroom => ⟨_, exec_enqb h b, ?_⟩, fun hfull => ?_⟩
  · rw [Ring.pushBack_room _ b hroom]
    exact ⟨rfl, rfl, rfl, rfl, Memory.read_write_same _ _ _, fun a ha => Memory.read_write_other _ _ ha⟩
  · rw [exec_enqb h, Ring.pushBack_full _ b hfull, PerChan.set_get]

/-- RECV with a byte in the ring (R126). -/
theorem recvStep_byte {c : Chan} {s : State} (h : 0 < (s.rx.get c).cap ∧ 0 < (s.rx.get c).len) :
    recvStep c s = .ok (((s.setRx c { s.rx.get c with
      head := ((s.rx.get c).head + 1) % (s.rx.get c).cap, len := (s.rx.get c).len - 1 }).drawn
        (s.rx.get c).popDraws).respond .ok (zextByte ((s.rx.get c).front (Config.freeByte s.draws)))) := by
  have hlen : (s.rx.get c).len ≠ 0 := h.2.ne'
  exact (if_pos h).trans (congrArg (Except.map _) (popRx_some c s hlen))

theorem recvStep_noData {c : Chan} {s : State} (h : ¬(0 < (s.rx.get c).cap ∧ 0 < (s.rx.get c).len)) :
    recvStep c s = .ok (s.respond .noData 0) :=
  if_neg h

theorem exec_recv_byte {sel : Sel} {c : Chan} {s : State} (h : canIssueOn s sel c)
    (hbyte : 0 < (s.rx.get c).cap ∧ 0 < (s.rx.get c).len) :
    exec (.recv sel) s = .next { s with
      rx := s.rx.set c { s.rx.get c with
        head := ((s.rx.get c).head + 1) % (s.rx.get c).cap, len := (s.rx.get c).len - 1 }
      trace := s.trace ++ [.resp .ok (zextByte ((s.rx.get c).front (Config.freeByte s.draws)))]
      draws := s.draws + (s.rx.get c).popDraws } :=
  runOneStep_update (t := (s.setRx c { s.rx.get c with
    head := ((s.rx.get c).head + 1) % (s.rx.get c).cap, len := (s.rx.get c).len - 1 }).drawn (s.rx.get c).popDraws)
    h rfl fun q => recvStep_byte (s := s.setCc q) hbyte

/-- Settles O29, from RECV with a byte in the ring and without one. -/
theorem recvTakesTheOldestByteOrNoData : Obligations.RecvTakesTheOldestByteOrNoData := by
  intro sel c s h
  refine ⟨fun hbyte => ⟨_, _, exec_recv_byte h hbyte, fun x hx => ⟨Ring.front_of_read hx _, ?_⟩⟩,
    fun hnone => runOneStep_respond h fun q => recvStep_noData (s := s.setCc q) hnone⟩
  rw [Ring.popDraws_of_read hx, Nat.add_zero]

/-- Settles O30: the update is the flush, and the query after it is O31's. -/
theorem flushrxEmptiesTheReceiveRing : Obligations.FlushrxEmptiesTheReceiveRing := by
  intro sel c s h
  refine ⟨(s.rx.get c).flush, (flushRx c s).emit (.resp .ok 0), rfl,
    runOneStep_update (t := flushRx c s) h rfl fun _ => rfl, rfl, rfl, rfl, rfl, ?_⟩
  have hlen : (((flushRx c s).emit (.resp .ok 0)).rx.get c).len = 0 := by
    rw [State.emit_rx, flushRx, State.setRx_rx, PerChan.get_set_same, Ring.flush]
  obtain ⟨hquery, -⟩ := statusQueriesReportAndWriteNothing sel c ((flushRx c s).emit (.resp .ok 0)) h
  rwa [if_pos hlen] at hquery

/-- Settles O32: a counter of at most 28 bits is its value in 28 bits. -/
theorem ovfcntReportsTheCounter : Obligations.OvfcntReportsTheCounter := by
  intro sel c s h hovf
  refine ⟨zextCount (s.ch.get c).ovf, ?_, runOneStep_respond h fun _ => rfl⟩
  rw [zextCount, BitVec.toNat_ofNat, Nat.mod_eq_of_lt hovf]

/-! ### The issue of the commands of several micro-steps -/

theorem exec_sendb_issue {sel : Sel} {c : Chan} {s : State} (h : canIssueOn s sel c) (b : Byte) :
    exec (.sendb sel b) s = .next (hold c (s.setCc (.busy (.sendb sel b) 0 .start))) :=
  runCommand_issue h

/-- Settles O23, from the issue transition. -/
theorem startbufIssueSetsActive : Obligations.StartbufIssueSetsActive := by
  intro sel c s h
  exact runCommand_issue h

/-- Settles O26: the two branches of the headroom check. -/
theorem sendblkHeadroomIsStrict : Obligations.SendblkHeadroomIsStrict := by
  intro sel c p s h
  have hexec : exec (.sendblk sel p) s =
      settle s (sendblkCheck p c .start (s.setCc (.busy (.sendblk sel p) 0 .start))) := runCommand_issue h
  refine ⟨fun hroom => hexec.trans (congrArg (settle s) (if_pos hroom)), fun hno => ?_⟩
  rw [← respond_of_canIssue h.1]
  exact hexec.trans (congrArg (settle s) (if_neg hno))

/-! ### The facade's write -/

theorem writeAndRespond_ok {c : Chan} {s : State} (b : Byte)
    (h : (s.hal.get c).tdr = none ∨ s.cfg.envModel = .free) :
    writeAndRespond c b s = .ok { s with
      hal := s.hal.set c { s.hal.get c with tdr := some b }
      ch := s.ch.set c { s.ch.get c with ready := false }
      cc := .idle, trace := s.trace ++ [.tdrWrite c b .facade, .resp .ok 0] } := by
  have hwrite : halWriteTdr c b .facade s =
      .ok ((s.setHal c { s.hal.get c with tdr := some b }).emit (.tdrWrite c b .facade)) :=
    h.elim (halWriteTdr_empty c b _ s) (halWriteTdr_free c b _ s)
  rw [writeAndRespond, facadeWrite, hwrite, List.append_cons]
  rfl

/-- A transition that is the facade's write, where the TDR takes the byte (R121, R256). -/
theorem exec_write_ok {i : Instr} {c : Chan} {s : State} {b : Byte}
    (hexec : exec i s = settle s (writeAndRespond c b s)) (h : (s.hal.get c).tdr = none ∨ s.cfg.envModel = .free) :
    exec i s = .next { s with
      hal := s.hal.set c { s.hal.get c with tdr := some b }
      ch := s.ch.set c { s.ch.get c with ready := false }
      cc := .idle, trace := s.trace ++ [.tdrWrite c b .facade, .resp .ok 0] } := by
  rw [hexec, writeAndRespond_ok b h, settle_ok]

theorem writeAndRespond_overrun {c : Chan} {s : State} (b : Byte) (hfull : (s.hal.get c).tdr ≠ none)
    (hmodel : s.cfg.envModel = .reference) : writeAndRespond c b s = raise .tdrOverrun s := by
  obtain ⟨x, hx⟩ := Option.ne_none_iff_exists'.1 hfull
  rw [writeAndRespond, facadeWrite, halWriteTdr_overrun c b x _ s hmodel hx]
  rfl

/-- The micro-step `active <- true` of the two commands that start a buffered transfer (R124 k0, R125 k(n+1)). -/
def activeIndex : Instr → Option Nat
  | .startbuf _  => some 0
  | .sendblk _ p => some (p.length + 1)
  | _            => none

/-- From `active <- true` on, STARTBUF and SENDBLK run the same micro-steps (R124, R125). -/
theorem exec_startSending {i : Instr} {sel : Sel} {c : Chan} {n : Nat} (j : Nat) {L : Locals} {s : State}
    (hn : activeIndex i = some n) (hsel : commandSel i = some sel) (h : atMicroStep s i sel c (n + j) L) :
    exec i s = settle s (startSending c j L s) := by
  cases i with
  | startbuf ch =>
    cases hn
    cases hsel
    rw [Nat.zero_add] at h
    exact runCommand_micro h
  | sendblk ch p =>
    cases hn
    cases hsel
    exact (runCommand_micro h).trans (congrArg (settle s) (sendblkSteps_after_payload p c j L s))
  | _ => cases hn

/-- With the TDR empty they go past their hold (R58). -/
theorem exec_startSending_hold {i : Instr} {sel : Sel} {c : Chan} {n : Nat} {L : Locals} {s : State}
    (hn : activeIndex i = some n) (hsel : commandSel i = some sel) (h : atMicroStep s i sel c (n + 2) L)
    (htdr : (s.hal.get c).tdr = none) : exec i s = .next (s.setCc (.busy i (n + 3) L)) := by
  have hexec := exec_startSending 2 hn hsel h
  obtain ⟨-, hcc, -, -⟩ := h
  rw [hexec, startSending, hold_of_tdr_empty htdr, settle_ok, s.advance_eq hcc]

/-- Their last micro-step is the facade's write of the byte they popped. -/
theorem exec_startSending_write {i : Instr} {sel : Sel} {c : Chan} {n : Nat} {L : Locals} {s : State} {b : Byte}
    (hn : activeIndex i = some n) (hsel : commandSel i = some sel) (h : atMicroStep s i sel c (n + 3) L)
    (hb : L.b = some b) : exec i s = settle s (writeAndRespond c b s) := by
  simp only [exec_startSending 3 hn hsel h, startSending, hb]

theorem exec_sendb_write {sel : Sel} {c : Chan} {L : Locals} {s : State} {b : Byte}
    (h : atMicroStep s (.sendb sel b) sel c 1 L) : exec (.sendb sel b) s = settle s (writeAndRespond c b s) :=
  runCommand_micro h

/-- Settles O22: each of the three commands ends in the facade's write, which completes or overruns. -/
theorem facadeWriteOrTdrOverrun : Obligations.FacadeWriteOrTdrOverrun := by
  intro i sel c k L b s hi h
  have hexec : exec i s = settle s (writeAndRespond c b s) := by
    obtain ⟨rfl, rfl⟩ | ⟨rfl, rfl, hb⟩ | ⟨p, rfl, rfl, hb⟩ := hi
    · exact exec_sendb_write h
    · exact exec_startSending_write rfl rfl h hb
    · exact exec_startSending_write rfl rfl h hb
  refine ⟨exec_write_ok hexec, fun ⟨hfull, hmodel⟩ => ?_⟩
  rw [hexec, writeAndRespond_overrun b hfull hmodel]
  rfl

/-! ### Several transitions -/

/-- The first of several transitions. -/
theorem execTimes_succ {i : Instr} {k : Nat} {s t : State} {o : Host.Outcome State Fault Refusal}
    (h : exec i s = .next t) (hrest : execTimes i k t = o) : execTimes i (k + 1) s = o := by
  simp only [execTimes, h, hrest]

/-- The first `m` of several transitions. -/
theorem execTimes_add {i : Instr} {m k : Nat} {s t : State} {o : Host.Outcome State Fault Refusal}
    (h : execTimes i m s = .next t) (hrest : execTimes i k t = o) : execTimes i (m + k) s = o := by
  induction m generalizing s with
  | zero =>
    cases h
    rwa [Nat.zero_add]
  | succ m ih =>
    rw [Nat.succ_add]
    cases hexec : exec i s with
    | next u    => exact execTimes_succ hexec (ih ((execTimes_succ hexec rfl).symm.trans h))
    | fault f   => simp [execTimes, hexec] at h
    | refused r => simp [execTimes, hexec] at h

/-- Settles O20: the issue runs the hold, and past it comes the facade's write. -/
theorem sendbHoldsOnAFullTdrElseCompletes : Obligations.SendbHoldsOnAFullTdrElseCompletes := by
  intro sel c b s h
  have hissue : exec (.sendb sel b) s = .next { s with
      cc := .busy (.sendb sel b) (if (s.hal.get c).tdr = none then 1 else 0) ⟨none, 0⟩ } := by
    rw [exec_sendb_issue h]
    split
    · exact congrArg _ (hold_of_tdr_empty ‹_›)
    · exact congrArg _ (hold_of_tdr_full ‹_›)
  refine ⟨hissue, fun hempty => ?_⟩
  rw [if_pos hempty] at hissue
  obtain ⟨⟨hf, hcc⟩, hc, hinit⟩ := h
  rw [hcc]
  exact execTimes_succ hissue (execTimes_succ
    (exec_write_ok (exec_sendb_write ⟨hf, rfl, hc, hinit⟩) (.inl hempty)) rfl)

/-! ### Sending the oldest byte -/

/-- With the TDR empty and a byte queued, the three transitions after `active <- true` take the oldest byte from the
ring to the TDR and end the command (R124 k1 to k3, R125 k(n+2) to k(n+4)). -/
theorem execTimes_sendOldest {i : Instr} {sel : Sel} {c : Chan} {n : Nat} {L : Locals} {s : State} {b : Byte}
    (hn : activeIndex i = some n) (hsel : commandSel i = some sel) (h : atMicroStep s i sel c (n + 1) L)
    (htdr : (s.hal.get c).tdr = none) (hlen : (s.tx.get c).len ≠ 0)
    (hb : Memory.read (s.tx.get c).store (s.tx.get c).head = some b) :
    execTimes i 3 s = .next { s with
      tx := s.tx.set c { s.tx.get c with
        head := ((s.tx.get c).head + 1) % (s.tx.get c).cap, len := (s.tx.get c).len - 1 }
      hal := s.hal.set c { s.hal.get c with tdr := some b }
      ch := s.ch.set c { s.ch.get c with ready := false }
      cc := .idle, trace := s.trace ++ [.tdrWrite c b .facade, .resp .ok 0] } := by
  have hpop := exec_startSending 1 hn hsel h
  obtain ⟨hf, hcc, hc, hinit⟩ := h
  rw [startSending, popForSending_some hcc hlen, Ring.front_of_read hb, Ring.popDraws_of_read hb, settle_ok] at hpop
  exact execTimes_succ hpop (execTimes_succ (exec_startSending_hold hn hsel ⟨hf, rfl, hc, hinit⟩ htdr)
    (execTimes_succ (exec_write_ok (exec_startSending_write hn hsel ⟨hf, rfl, hc, hinit⟩ rfl) (.inl htdr)) rfl))

/-- The same with the transition of `active <- true` before them. -/
theorem execTimes_startSending {i : Instr} {sel : Sel} {c : Chan} {n : Nat} {L : Locals} {s : State} {b : Byte}
    (hn : activeIndex i = some n) (hsel : commandSel i = some sel)
    (hactive : exec i s = .next ((s.setActive c true).setCc (.busy i (n + 1) L)))
    (hf : s.faults = none) (hc : selChan sel = some c) (hinit : (s.ch.get c).init = true)
    (htdr : (s.hal.get c).tdr = none) (hlen : (s.tx.get c).len ≠ 0)
    (hb : Memory.read (s.tx.get c).store (s.tx.get c).head = some b) :
    execTimes i 4 s = .next { s with
      tx := s.tx.set c { s.tx.get c with
        head := ((s.tx.get c).head + 1) % (s.tx.get c).cap, len := (s.tx.get c).len - 1 }
      hal := s.hal.set c { s.hal.get c with tdr := some b }
      ch := s.ch.set c { s.ch.get c with ready := false, active := true }
      cc := .idle, trace := s.trace ++ [.tdrWrite c b .facade, .resp .ok 0] } := by
  have hinit' : (((s.setActive c true).setCc (.busy i (n + 1) L)).ch.get c).init = true := by simp [hinit]
  refine execTimes_succ hactive (Eq.trans (execTimes_sendOldest hn hsel ⟨hf, rfl, hc, hinit'⟩ htdr hlen hb) ?_)
  simp [State.setCc, State.setActive, State.setCh]

/-- Settles O25: STARTBUF's issue is its `active <- true` (O23), and then the oldest byte is sent. -/
theorem startbufCompletesWithAnEmptyTdr : Obligations.StartbufCompletesWithAnEmptyTdr := by
  intro sel c b s h htdr hlen hb
  have hissue := startbufIssueSetsActive sel c s h
  obtain ⟨⟨hf, hcc⟩, hc, hinit⟩ := h
  rw [execTimes_startSending rfl rfl hissue hf hc hinit htdr hlen hb, ← hcc]

/-! ### Copying the payload -/

namespace Ring

/-- The ring after a push of each byte in turn, the results discarded (R125 k1 to kn). -/
def pushAll (r : Ring) (p : List Byte) : Ring := p.foldl (fun r b => (r.pushBack b).2) r

@[simp] theorem pushAll_nil (r : Ring) : r.pushAll [] = r := rfl
@[simp] theorem pushAll_cons (r : Ring) (b : Byte) (p : List Byte) :
    r.pushAll (b :: p) = (r.pushBack b).2.pushAll p := rfl

@[simp] theorem pushAll_cap (r : Ring) (p : List Byte) : (r.pushAll p).cap = r.cap := by
  induction p generalizing r with
  | nil => rfl
  | cons b p ih => rw [pushAll_cons, ih, pushBack_cap]

theorem wf.pushAll {r : Ring} (h : r.wf) (p : List Byte) : (r.pushAll p).wf := by
  induction p generalizing r with
  | nil => exact h
  | cons b p ih => exact ih (h.pushBack b)

/-- With room for all of them, the bytes stand behind what was queued. -/
theorem wf.queue_pushAll {r : Ring} (h : r.wf) {p : List Byte} (hroom : r.len + p.length ≤ r.cap) :
    (r.pushAll p).queue = r.queue ++ p.map some := by
  induction p generalizing r with
  | nil => simp
  | cons b p ih =>
    rw [List.length_cons] at hroom
    have hlen : (r.pushBack b).2.len = r.len + 1 := by rw [pushBack_room r b (by omega)]
    rw [pushAll_cons, ih (h.pushBack b) (by rw [hlen, pushBack_cap]; omega), h.queue_pushBack (by omega),
      List.append_assoc, List.map_cons, List.singleton_append]

/-- With room for all of them, the occupancy grows by their number. -/
theorem wf.len_pushAll {r : Ring} (h : r.wf) {p : List Byte} (hroom : r.len + p.length ≤ r.cap) :
    (r.pushAll p).len = r.len + p.length := by
  rw [← queue_length, h.queue_pushAll hroom, List.length_append, List.length_map, queue_length]

/-- The oldest byte of a well-formed ring is known, and it stands at the head (R30, R31). -/
theorem wf.read_head {r : Ring} (h : r.wf) (hlen : r.len ≠ 0) : ∃ b, Memory.read r.store r.head = some b := by
  have hknown := h.read_slot_isSome (j := 0) (by omega)
  obtain ⟨hle, hidx, -⟩ := h
  obtain ⟨hhead, -⟩ := hidx (by omega)
  rw [slot, Nat.add_zero, Nat.mod_eq_of_lt hhead] at hknown
  exact Option.isSome_iff_exists.1 hknown

end Ring

/-- SENDBLK pushes the bytes that are left, one in each transition, and comes to its `active <- true` (R125 k1 to
k(n+1)). -/
theorem execTimes_sendblk_payload {sel : Sel} {p rest : List Byte} {c : Chan} {L : Locals} {s : State}
    (h : atMicroStep s (.sendblk sel p) sel c (L.i + 1) L) (hrest : p.drop L.i = rest)
    (hend : L.i + rest.length = p.length) :
    execTimes (.sendblk sel p) rest.length s = .next { s with
      tx := s.tx.set c ((s.tx.get c).pushAll rest)
      cc := .busy (.sendblk sel p) (p.length + 1) { L with i := p.length } } := by
  induction rest generalizing L s with
  | nil =>
    obtain ⟨-, hcc, -⟩ := h
    rw [Ring.pushAll_nil, PerChan.set_get, ← hend]
    exact congrArg (fun q => Host.Outcome.next { s with cc := q }) hcc
  | cons b rest ih =>
    rw [List.length_cons] at hend
    have hlt : L.i < p.length := by omega
    obtain ⟨hb, hdrop⟩ := List.cons.inj ((List.drop_eq_getElem_cons hlt).symm.trans hrest)
    have hpush := exec_sendblk_at_payload h (by omega) (by omega) (hb ▸ List.getElem?_eq_getElem hlt)
    obtain ⟨hf, -, hc, hinit⟩ := h
    refine execTimes_succ hpush (Eq.trans (ih (L := { L with i := L.i + 1 }) ⟨hf, rfl, hc, hinit⟩ hdrop ?_) ?_)
    · rw [← hend, Nat.add_right_comm, Nat.add_assoc]
    · rw [PerChan.get_set_same, PerChan.set_set, Ring.pushAll_cons]

/-- Settles O28: the headroom check passes (O26), the payload is pushed, and then the oldest byte is sent. -/
theorem sendblkCompletesAllOrNothing : Obligations.SendblkCompletesAllOrNothing := by
  intro sel c p s h htdr hwf hpos hroom
  obtain ⟨hissue, -⟩ := sendblkHeadroomIsStrict sel c p s h
  obtain ⟨⟨hf, hcc⟩, hc, hinit⟩ := h
  have hcopy := execTimes_sendblk_payload (rest := p) (L := ⟨none, 0⟩)
    (s := { s with cc := .busy (.sendblk sel p) 1 ⟨none, 0⟩ }) ⟨hf, rfl, hc, hinit⟩ rfl (Nat.zero_add _)
  have hwf' := hwf.pushAll p
  have hlen := hwf.len_pushAll hroom.le
  have hne : ((s.tx.get c).pushAll p).len ≠ 0 := by omega
  obtain ⟨b, hb⟩ := hwf'.read_head hne
  have hpop := ((s.tx.get c).pushAll p).popFront_some b hne
  rw [Ring.front_of_read hb] at hpop
  refine ⟨b, _, ?_, (hwf'.queue_popFront hpop).symm.trans (hwf.queue_pushAll hroom.le), by rw [hlen],
    Ring.pushAll_cap _ _, hwf'.popFront hpop⟩
  refine execTimes_succ (hissue ⟨hpos, hroom⟩) (execTimes_add hcopy (Eq.trans (execTimes_startSending (b := b)
    rfl rfl (exec_sendblk_after_payload ⟨hf, rfl, hc, hinit⟩) hf hc hinit htdr ?_ ?_) ?_))
  · rwa [PerChan.get_set_same]
  · rwa [PerChan.get_set_same]
  · rw [PerChan.get_set_same, PerChan.set_set, ← hcc]

end Sys2Proof.Machine
end

section
/-! PROOFS of O34. The transmit engine's handler has two ends: the done values, or the oldest byte taken off the ring
and written to the TDR. One equation for each, and the inversion of both (`txcHandler_cases`), which the rules about
the handshake and about whole transfers use. -/

namespace Sys2Proof.Machine

/-- The state from which the engine writes: its event cleared, the oldest byte taken off the ring (R171). -/
def engineFetched (c : Chan) (s : State) : State :=
  ((clearTxcPend c s).setTx c { s.tx.get c with
    head := ((s.tx.get c).head + 1) % (s.tx.get c).cap, len := (s.tx.get c).len - 1 }).drawn (s.tx.get c).popDraws

theorem engineFetched_hal (c : Chan) (s : State) :
    (engineFetched c s).hal.get c = { s.hal.get c with txcPend := false } := PerChan.get_set_same _ _ c

section
variable {c : Chan} {s : State} (hinit : (s.ch.get c).init = true)
include hinit

/-- In SINGLE_BYTE, and in BUFFERED with an empty ring, the engine sets the done values (R171). -/
theorem txcHandler_done (h : (s.ch.get c).active = false ∨ (s.tx.get c).len = 0) :
    txcHandler c s = .ok (doneWith c false (clearTxcPend c s)) := by
  obtain h | h := h <;> simp [txcHandler, hinit, h, Ring.occupancy]

variable (hactive : (s.ch.get c).active = true) (hlen : (s.tx.get c).len ≠ 0)
include hactive hlen

/-- In BUFFERED with a byte queued the engine pops the oldest byte and writes it (R171). -/
theorem txcHandler_next :
    txcHandler c s = halWriteTdr c ((s.tx.get c).front (Config.freeByte s.draws)) .engine (engineFetched c s) := by
  have hpop := popTx_some c (clearTxcPend c s) hlen
  simp only [txcHandler, hinit, hactive, Bool.true_eq_false, if_false, if_true, Ring.occupancy,
    if_pos (Nat.pos_of_ne_zero hlen), hpop]
  rfl

/-- The write completes where the TDR takes the byte (R256). -/
theorem txcHandler_next_ok (htdr : (s.hal.get c).tdr = none ∨ s.cfg.envModel = .free) :
    txcHandler c s = .ok { s with
      tx := s.tx.set c { s.tx.get c with
        head := ((s.tx.get c).head + 1) % (s.tx.get c).cap, len := (s.tx.get c).len - 1 }
      hal := s.hal.set c { s.hal.get c with
        txcPend := false, tdr := some ((s.tx.get c).front (Config.freeByte s.draws)) }
      trace := s.trace ++ [.tdrWrite c ((s.tx.get c).front (Config.freeByte s.draws)) .engine]
      draws := s.draws + (s.tx.get c).popDraws } := by
  have htdr' : ((engineFetched c s).hal.get c).tdr = none ∨ (engineFetched c s).cfg.envModel = .free := by
    rwa [engineFetched_hal]
  rw [txcHandler_next hinit hactive hlen, htdr'.elim (halWriteTdr_empty c _ _ _) (halWriteTdr_free c _ _ _),
    engineFetched_hal]
  simp [engineFetched, clearTxcPend, State.emit, State.setHal, State.setTx, State.drawn]

/-- It overruns a full TDR in the reference model, and nothing else is written (R256, R240). -/
theorem txcHandler_next_overrun (htdr : (s.hal.get c).tdr ≠ none) (hmodel : s.cfg.envModel = .reference) :
    settle s (txcHandler c s) = .next { s with faults := some .tdrOverrun } := by
  obtain ⟨x, hx⟩ := Option.ne_none_iff_exists'.1 htdr
  have hx' : ((engineFetched c s).hal.get c).tdr = some x := by rwa [engineFetched_hal]
  rw [txcHandler_next hinit hactive hlen, halWriteTdr_overrun c _ x _ (engineFetched c s) hmodel hx']
  rfl

end

/-- Everything the transmit engine can do when it completes: the done values, or a write that leaves the flags and the
call context's progress alone (R171, R172, R237). -/
theorem txcHandler_cases {c : Chan} {s t : State} (h : txcHandler c s = .ok t) :
    (((s.ch.get c).active = false ∨ (s.tx.get c).len = 0) ∧ t = doneWith c false (clearTxcPend c s)) ∨
    (t.ch = s.ch ∧ t.cc = s.cc) := by
  cases hinit : (s.ch.get c).init with
  | false =>
    rw [txcHandler, if_pos hinit] at h
    cases h
  | true =>
    by_cases hdone : (s.ch.get c).active = false ∨ (s.tx.get c).len = 0
    · rw [txcHandler_done hinit hdone] at h
      cases h
      exact .inl ⟨hdone, rfl⟩
    · simp only [not_or, Bool.not_eq_false] at hdone
      obtain ⟨hactive, hlen⟩ := hdone
      rw [txcHandler_next hinit hactive hlen] at h
      obtain ⟨he, -⟩ | ⟨he, -⟩ := halWriteTdr_cases c _ .engine _ <;> rw [he] at h <;> cases h
      exact .inr ⟨rfl, rfl⟩

/-- Settles O34: the handler is enabled, so it runs, in the branch its flags and ring choose. -/
theorem transmitEngineSetsDoneOrFeedsTheNextByte : Obligations.TransmitEngineSetsDoneOrFeedsTheNextByte := by
  intro i c s hi ⟨he, hinit⟩
  have hexec : exec i s = settle s (txcHandler c s) := by
    simp only [List.mem_cons, List.not_mem_nil, or_false, Prod.mk.injEq] at hi
    obtain ⟨rfl, rfl⟩ | ⟨rfl, rfl⟩ := hi <;> exact takeEvent_run he
  rw [hexec]
  refine ⟨fun hdone => ?_, fun hactive hlen htdr => ?_, fun hactive hlen ⟨htdr, hmodel⟩ => ?_⟩
  · rw [txcHandler_done hinit hdone]
    rfl
  · refine ⟨_, _, congrArg (settle s) (txcHandler_next_ok hinit hactive hlen htdr), fun x hx => ?_⟩
    exact ⟨Ring.front_of_read hx _, by rw [Ring.popDraws_of_read hx, Nat.add_zero]⟩
  · exact txcHandler_next_overrun hinit hactive hlen htdr hmodel

end Sys2Proof.Machine
end

section
/-! PROOFS of O49 and O51. One inversion says what a transition of an instruction can do to a channel's handshake
(`HandshakeStep`): a command's own micro-step and the two handlers are walked through for the channel they work on, and
the other channel is left alone (O55). O49 and O51 are two readings of it. -/

namespace Sys2Proof.Machine

/-! ### Past `active <- true` -/

/-- A command that has set `active` stands past that micro-step (R124, R125). -/
theorem sendingStarted_iff {s : State} {c : Chan} :
    sendingStarted s c = true ↔
      ∃ i k L n, s.cc = .busy i k L ∧ commandChan i = some c ∧ activeIndex i = some n ∧ n < k := by
  unfold sendingStarted
  cases s.cc with
  | idle => simp
  | busy i k L =>
    simp only [Bool.and_eq_true, decide_eq_true_eq, Progress.busy.injEq]
    constructor
    · rintro ⟨hc, hk⟩
      refine ⟨i, k, L, ?_⟩
      cases i with
      | startbuf ch  => exact ⟨0, ⟨rfl, rfl, rfl⟩, hc, rfl, of_decide_eq_true hk⟩
      | sendblk ch p => exact ⟨p.length + 1, ⟨rfl, rfl, rfl⟩, hc, rfl, of_decide_eq_true hk⟩
      | _            => cases hk
    · rintro ⟨_, _, _, n, ⟨rfl, rfl, rfl⟩, hc, hn, hk⟩
      refine ⟨hc, ?_⟩
      cases i with
      | startbuf ch  => cases hn; exact decide_eq_true hk
      | sendblk ch p => cases hn; exact decide_eq_true hk
      | _            => cases hn

/-- Only a STARTBUF and a SENDBLK set `active` (R124, R125). -/
theorem activeIndex_cases {i : Instr} {n : Nat} (h : activeIndex i = some n) :
    (∃ ch, i = .startbuf ch) ∨ ∃ ch p, i = .sendblk ch p := by
  cases i with
  | startbuf ch  => exact .inl ⟨ch, rfl⟩
  | sendblk ch p => exact .inr ⟨ch, p, rfl⟩
  | _            => cases h

/-! ### What a transition does to a channel's handshake -/

/-- Everything a transition of `i` from `s` to `t` can do to the handshake of channel `c` (R176), and what it then says
of the call context: the rows of the table, INIT's values, or no change, in which case a command past its
`active <- true` stays past it. -/
inductive HandshakeStep (i : Instr) (c : Chan) (s t : State) : Prop where
  | keeps (hflags : handshake (t.ch.get c) = handshake (s.ch.get c))
      (hsending : sendingStarted s c = true → sendingStarted t c = true)
  | initialises (hchan : commandChan i = some c) (huninit : (s.ch.get c).init = false)
      (hflags : handshake (t.ch.get c) = .idle)
  | writes (b : Byte) (hchan : commandChan i = some c) (hflags : t.ch.get c = { s.ch.get c with ready := false })
      (hcc : t.cc = .idle) (htrace : t.trace = s.trace ++ [.tdrWrite c b .facade, .resp .ok 0])
  | activates (k : Nat) (L : Locals) (hchan : commandChan i = some c) (hindex : activeIndex i = some k)
      (hflags : t.ch.get c = { s.ch.get c with active := true }) (hcc : t.cc = .busy i (k + 1) L)
  | done (hi : i = decodeVector (txcVector c)) (hpend : (s.hal.get c).txcPend = true)
      (hempty : (s.ch.get c).active = false ∨ (s.tx.get c).len = 0) (hflags : handshake (t.ch.get c) = .idle)

/-- What the relation reads of the state before. -/
theorem HandshakeStep.of_start {i : Instr} {c : Chan} {s u t : State} (h : HandshakeStep i c u t) (hch : u.ch = s.ch)
    (htx : u.tx = s.tx) (hhal : u.hal = s.hal) (htrace : u.trace = s.trace)
    (hsending : sendingStarted s c = true → sendingStarted u c = true) : HandshakeStep i c s t := by
  cases h with
  | keeps hflags hs => exact .keeps (hch ▸ hflags) (hs ∘ hsending)
  | initialises hchan huninit hflags => exact .initialises hchan (hch ▸ huninit) hflags
  | writes b hchan hflags hcc htr => exact .writes b hchan (hch ▸ hflags) hcc (htrace ▸ htr)
  | activates k L hchan hindex hflags hcc => exact .activates k L hchan hindex (hch ▸ hflags) hcc
  | done hi hpend hempty hflags => exact .done hi (hhal ▸ hpend) (hch ▸ htx ▸ hempty) hflags

/-- Recording a fault moves neither the flags nor the call context (R240). -/
theorem HandshakeStep.takeFault (i : Instr) (c : Chan) (s : State) (f : Fault) (tr : List Event) :
    HandshakeStep i c s (s.takeFault f tr) := .keeps rfl id

/-! ### The commands' micro-steps -/

section MicroSteps
variable {i : Instr} {c : Chan} {k : Nat} {L : Locals} {u t : State} (hcc : u.cc = .busy i k L)
include hcc

/-- A command that has not come past an `active <- true` of its own. -/
theorem not_sendingStarted (hn : ∀ n, activeIndex i = some n → k ≤ n) : sendingStarted u c = false := by
  rw [← Bool.not_eq_true, sendingStarted_iff]
  rintro ⟨j, l, M, n, hcc', -, hn', hlt⟩
  cases hcc.symm.trans hcc'
  exact absurd (hn n hn') (by omega)

/-- A micro-step after which the command goes on, the flags as they were. -/
theorem HandshakeStep.goesOn {k' : Nat} {M : Locals} (ht : t.cc = .busy i k' M) (hk : k ≤ k') (hch : t.ch = u.ch) :
    HandshakeStep i c u t := by
  refine .keeps (by rw [hch]) fun hs => ?_
  obtain ⟨j, l, N, n, hcc', hchan, hn, hlt⟩ := sendingStarted_iff.1 hs
  cases hcc.symm.trans hcc'
  exact sendingStarted_iff.2 ⟨i, k', M, n, ht, hchan, hn, by omega⟩

/-- A micro-step that leaves the handshake as it was, of a command that has not set `active`. -/
theorem HandshakeStep.beforeActive (hn : ∀ n, activeIndex i = some n → k ≤ n)
    (hflags : handshake (t.ch.get c) = handshake (u.ch.get c)) : HandshakeStep i c u t :=
  .keeps hflags fun hs => by simp [not_sendingStarted hcc hn] at hs

theorem hold_handshakeStep : HandshakeStep i c u (hold c u) := by
  by_cases htdr : (u.hal.get c).tdr = none
  · rw [hold_of_tdr_empty htdr]
    exact .goesOn hcc (u.advance_cc hcc) (Nat.le_succ k) u.advance_ch
  · rw [hold_of_tdr_full htdr]
    exact .keeps rfl id

omit hcc in
theorem writeAndRespond_handshakeStep {b : Byte} (hchan : commandChan i = some c)
    (h : writeAndRespond c b u = .ok t) : HandshakeStep i c u t := by
  obtain ⟨-, hmodel, hfull⟩ | ⟨-, htdr⟩ := halWriteTdr_cases c b .facade u
  · rw [writeAndRespond_overrun b (Option.isSome_iff_ne_none.1 hfull) hmodel] at h
    cases h
  · rw [writeAndRespond_ok b htdr.symm] at h
    cases h
    exact .writes b hchan (PerChan.get_set_same ..) rfl rfl

theorem sendbSteps_handshakeStep {b : Byte} (hchan : commandChan i = some c) (h : sendbSteps b c k L u = .ok t) :
    HandshakeStep i c u t := by
  match k with
  | 0     => cases h; exact hold_handshakeStep hcc
  | 1     => exact writeAndRespond_handshakeStep hchan h
  | _ + 2 => cases h

theorem popForSending_handshakeStep (h : popForSending c L u = .ok t) : HandshakeStep i c u t := by
  by_cases hlen : (u.tx.get c).len = 0
  · rw [popForSending_empty L hlen] at h
    cases h
  · rw [popForSending_some hcc hlen] at h
    cases h
    exact .goesOn hcc rfl (Nat.le_succ k) rfl

theorem startSending_handshakeStep {n j : Nat} (hchan : commandChan i = some c) (hn : activeIndex i = some n)
    (hk : k = n + j) (h : startSending c j L u = .ok t) : HandshakeStep i c u t := by
  match j with
  | 0 =>
    cases h
    refine .activates k L hchan (hk ▸ hn) ?_ ((u.setActive c true).advance_cc hcc)
    rw [State.advance_ch, State.setActive_ch, PerChan.get_set_same]
  | 1 => exact popForSending_handshakeStep hcc h
  | 2 => cases h; exact hold_handshakeStep hcc
  | 3 =>
    simp only [startSending] at h
    split at h
    · cases h
    · exact writeAndRespond_handshakeStep hchan h
  | _ + 4 => cases h

theorem sendblkSteps_handshakeStep {ch : Sel} {p : List Byte} (hi : i = .sendblk ch p) (hchan : commandChan i = some c)
    (h : sendblkSteps p c k L u = .ok t) : HandshakeStep i c u t := by
  unfold sendblkSteps at h
  split at h
  · unfold sendblkCheck at h
    split at h <;> cases h
    · exact .goesOn hcc ((u.setLocals _).advance_cc (u.setLocals_cc hcc)) (Nat.le_succ k)
        ((State.advance_ch _).trans (u.setLocals_ch _))
    · exact .beforeActive hcc (fun n _ => by omega) rfl
  · split at h
    · cases hb : p[L.i]? with
      | none => simp [sendblkPush, payloadByte, hb] at h
      | some b =>
        rw [sendblkPush_byte hcc hb] at h
        cases h
        exact .goesOn hcc rfl (Nat.le_succ k) rfl
    · exact startSending_handshakeStep hcc hchan (n := p.length + 1) (by rw [hi]; rfl) (by omega) h

theorem oneStep_handshakeStep {k0 : Chan → State → Effect State} (hn : activeIndex i = none)
    (hk0 : k0 c u = .ok t → handshake (t.ch.get c) = handshake (u.ch.get c)) (h : oneStep k0 c k L u = .ok t) :
    HandshakeStep i c u t := by
  cases k with
  | zero   => exact .beforeActive hcc (fun n hn' => by simp [hn] at hn') (hk0 h)
  | succ k => cases h

end MicroSteps

theorem initStep_handshakeStep {i : Instr} {c : Chan} {k : Nat} {L : Locals} {u t : State}
    (hchan : commandChan i = some c) (h : oneStep initStep c k L u = .ok t) : HandshakeStep i c u t := by
  cases k with
  | zero =>
    simp only [oneStep, initStep] at h
    split at h <;> cases h
    exact .initialises hchan (Bool.eq_false_iff.2 ‹_›) (by simp [halEnableIrqs, halSetBaud, handshake])
  | succ k => cases h

theorem setbaudStep_ch {rate : Rate} {c : Chan} {u t : State} (h : setbaudStep rate c u = .ok t) : t.ch = u.ch := by
  unfold setbaudStep at h
  split at h <;> cases h
  rfl

theorem recvStep_ch {c : Chan} {u t : State} (h : recvStep c u = .ok t) : t.ch = u.ch := by
  by_cases hbyte : 0 < (u.rx.get c).cap ∧ 0 < (u.rx.get c).len
  · rw [recvStep_byte hbyte] at h
    cases h
    rfl
  · rw [recvStep_noData hbyte] at h
    cases h
    rfl

/-! ### The command frame -/

theorem progressOf_cases {i : Instr} {q : Progress} {k : Nat} {L : Locals} (h : progressOf i q = some (k, L)) :
    q = .idle ∨ q = .busy i k L := by
  unfold progressOf at h
  split at h
  · exact .inl rfl
  · split at h <;> cases h
    subst i
    exact .inr rfl

theorem runCommand_handshakeStep {i : Instr} {sel : Sel} {needsInit : Bool} {c : Chan} {s t : State}
    {body : Chan → Nat → Locals → State → Effect State} (hc : selChan sel = some c)
    (hbody : ∀ {k L u}, u.cc = .busy i k L → body c k L u = .ok t → HandshakeStep i c u t)
    (h : runCommand i sel needsInit body s = .next t) : HandshakeStep i c s t := by
  obtain ⟨-, k, L, hp, ⟨hnone, -⟩ | ⟨d, hd, hrun⟩⟩ := runCommand_cases h
  · rw [hc] at hnone
    cases hnone
  · obtain rfl : c = d := Option.some.inj (hc.symm.trans hd)
    obtain ⟨-, -, rfl⟩ | ⟨-, hsettle⟩ := hrun
    · exact .takeFault ..
    · obtain hok | ⟨f, tr, -, rfl⟩ := settle_cases hsettle
      · refine (hbody rfl hok).of_start rfl rfl rfl rfl fun hs => ?_
        obtain hidle | hbusy := progressOf_cases hp
        · simp [sendingStarted, hidle] at hs
        · rwa [sendingStarted, hbusy] at hs
      · exact .takeFault ..

theorem runOneStep_handshakeStep {i : Instr} {sel : Sel} {c : Chan} {s t : State} {k0 : Chan → State → Effect State}
    (hc : selChan sel = some c) (hn : activeIndex i = none)
    (hk0 : ∀ {u}, k0 c u = .ok t → handshake (t.ch.get c) = handshake (u.ch.get c))
    (h : runCommand i sel true (oneStep k0) s = .next t) : HandshakeStep i c s t :=
  runCommand_handshakeStep hc (fun hcc => oneStep_handshakeStep hcc hn hk0) h

/-! ### The handlers -/

theorem bufferOrCount_keeps (c : Chan) (b : Byte) (s : State) :
    handshake ((bufferOrCount c b s).ch.get c) = handshake (s.ch.get c) ∧ (bufferOrCount c b s).cc = s.cc := by
  unfold bufferOrCount pushRx
  cases ((s.rx.get c).pushBack b).1 with
  | true  => exact ⟨rfl, rfl⟩
  | false => exact ⟨by simp [handshake], rfl⟩

/-- The receive engine leaves the handshake and the call context alone (R191, R237). -/
theorem rxcHandler_keeps {c : Chan} {s t : State} (h : rxcHandler c s = .ok t) :
    handshake (t.ch.get c) = handshake (s.ch.get c) ∧ t.cc = s.cc := by
  cases hrdr : (s.hal.get c).rdr with
  | none =>
    rw [rxcHandler, halReadRdr_none c s hrdr] at h
    cases h
  | some b =>
    simp only [rxcHandler, halReadRdr_some c b s hrdr] at h
    split at h
    · cases h
    · split at h <;> cases h
      · exact ⟨rfl, rfl⟩
      · exact bufferOrCount_keeps c b _

theorem eq_txcVector : ∀ {ev : BitVec 2}, vectorKind ev = .txc → ev = txcVector (vectorChan ev) := by decide

/-- A handler that is taken leaves the call context where it was (R237), and the transmit engine alone moves the
handshake of its channel (R171, R176). -/
theorem exec_decodeVector_keeps {ev : BitVec 2} {s t : State} (h : exec (decodeVector ev) s = .next t) :
    t.cc = s.cc ∧ (handshake (t.ch.get (vectorChan ev)) = handshake (s.ch.get (vectorChan ev)) ∨
      (ev = txcVector (vectorChan ev) ∧ (s.hal.get (vectorChan ev)).txcPend = true ∧
        ((s.ch.get (vectorChan ev)).active = false ∨ (s.tx.get (vectorChan ev)).len = 0) ∧
        handshake (t.ch.get (vectorChan ev)) = .idle)) := by
  rw [exec_decodeVector] at h
  obtain ⟨he, hsettle⟩ := takeEvent_cases h
  obtain hok | ⟨f, tr, -, rfl⟩ := settle_cases hsettle
  · cases hkind : vectorKind ev with
    | rxc =>
      rw [hkind] at hok
      obtain ⟨hflags, hcc⟩ := rxcHandler_keeps hok
      exact ⟨hcc, .inl hflags⟩
    | txc =>
      rw [hkind] at hok he
      obtain ⟨hpend, -, -⟩ := (handlerEnabled_iff (handlerEnabled_faults he)).1 he
      obtain ⟨hempty, rfl⟩ | ⟨hch, hcc⟩ := txcHandler_cases hok
      · exact ⟨rfl, .inr ⟨eq_txcVector hkind, hpend, hempty, congrArg handshake (PerChan.get_set_same ..)⟩⟩
      · exact ⟨hcc, .inl (by rw [hch])⟩
  · exact ⟨rfl, .inl rfl⟩

theorem exec_decodeVector_handshakeStep {ev : BitVec 2} {s t : State} (h : exec (decodeVector ev) s = .next t) :
    HandshakeStep (decodeVector ev) (vectorChan ev) s t := by
  obtain ⟨hcc, hflags | ⟨hev, hpend, hempty, hidle⟩⟩ := exec_decodeVector_keeps h
  · exact .keeps hflags fun hs => by rwa [sendingStarted, hcc]
  · exact .done (congrArg decodeVector hev) hpend hempty hidle

/-! ### Every instruction -/

/-- What an instruction's transition does to the handshake of the channel it works on. -/
theorem exec_handshakeStep_own {i : Instr} {c : Chan} {s t : State} (hi : instrChan i = some c)
    (h : exec i s = .next t) : HandshakeStep i c s t := by
  cases i with
  | init ch         => exact runCommand_handshakeStep hi (fun _ => initStep_handshakeStep hi) h
  | setcb ch cb     => exact runOneStep_handshakeStep hi rfl (fun hk => by cases hk; simp [handshake]) h
  | setbaud ch rate => exact runOneStep_handshakeStep hi rfl (fun hk => by rw [setbaudStep_ch hk]) h
  | sendb ch b      => exact runCommand_handshakeStep hi (fun hcc => sendbSteps_handshakeStep hcc hi) h
  | enqb ch b       => exact runOneStep_handshakeStep hi rfl (fun hk => by cases hk; rfl) h
  | sendblk ch p    => exact runCommand_handshakeStep hi (fun hcc => sendblkSteps_handshakeStep hcc rfl hi) h
  | startbuf ch     =>
    exact runCommand_handshakeStep hi (fun hcc => startSending_handshakeStep hcc hi rfl (Nat.zero_add _).symm) h
  | recv ch         => exact runOneStep_handshakeStep hi rfl (fun hk => by rw [recvStep_ch hk]) h
  | flushrx ch      => exact runOneStep_handshakeStep hi rfl (fun hk => by cases hk; rfl) h
  | rxempty ch      => exact runOneStep_handshakeStep hi rfl (fun hk => by cases hk; rfl) h
  | txpend ch       => exact runOneStep_handshakeStep hi rfl (fun hk => by cases hk; rfl) h
  | ovfcnt ch       => exact runOneStep_handshakeStep hi rfl (fun hk => by cases hk; rfl) h
  | rxc0            => cases hi; exact exec_decodeVector_handshakeStep (ev := 0) h
  | txc0            => cases hi; exact exec_decodeVector_handshakeStep (ev := 1) h
  | rxc1            => cases hi; exact exec_decodeVector_handshakeStep (ev := 2) h
  | txc1            => cases hi; exact exec_decodeVector_handshakeStep (ev := 3) h
  | reserved w      => cases hi

/-- An instruction leaves a channel alone that it does not work on (R62). -/
theorem exec_ch_other {i : Instr} {d : Chan} {s t : State} (hi : instrChan i ≠ some d) (h : exec i s = .next t) :
    t.ch.get d = s.ch.get d := by
  have hself : withOther d.other s s = s := by simp [withOther]
  have hrel := (withOther_channelRelation d.other s).exec (i := i) (s := s) (fun e he => ?_) rfl
  · rw [hself, h] at hrel
    cases hrel with
    | next ht =>
      have hch := congrArg (fun u : State => u.ch.get d) ht
      simpa [withOther] using hch
  · exact (Chan.eq_or_other d e).resolve_left fun hed => hi (hed ▸ he)

/-- Where the call context stood when an instruction had its transition: at that instruction, or idle, or elsewhere and
it stays there, because a handler ran (R211, R237). -/
theorem exec_progress {i : Instr} {s t : State} (h : exec i s = .next t) :
    s.cc = .idle ∨ (∃ k L, s.cc = .busy i k L) ∨ t.cc = s.cc := by
  cases i with
  | rxc0       => exact .inr (.inr (exec_decodeVector_keeps (ev := 0) h).1)
  | txc0       => exact .inr (.inr (exec_decodeVector_keeps (ev := 1) h).1)
  | rxc1       => exact .inr (.inr (exec_decodeVector_keeps (ev := 2) h).1)
  | txc1       => exact .inr (.inr (exec_decodeVector_keeps (ev := 3) h).1)
  | reserved w =>
    simp only [exec, execReserved] at h
    split at h
    · cases h
    · split at h
      · cases h
      · exact (progressOf_cases ‹_›).imp id fun hbusy => .inl ⟨_, _, hbusy⟩
  | _          =>
    obtain ⟨-, k, L, hp, -⟩ := runCommand_cases h
    exact (progressOf_cases hp).imp id fun hbusy => .inl ⟨k, L, hbusy⟩

theorem instrChan_of_commandChan {i : Instr} {c : Chan} (h : commandChan i = some c) : instrChan i = some c := by
  cases i with
  | rxc0 => cases h
  | txc0 => cases h
  | rxc1 => cases h
  | txc1 => cases h
  | _    => exact h

/-- Everything an instruction's transition does to a channel's handshake. -/
theorem exec_handshakeStep {i : Instr} {s t : State} (h : exec i s = .next t) (c : Chan) : HandshakeStep i c s t := by
  by_cases hi : instrChan i = some c
  · exact exec_handshakeStep_own hi h
  · refine .keeps (by rw [exec_ch_other hi h]) fun hs => ?_
    obtain ⟨j, k, L, n, hcc, hchan, hn, hlt⟩ := sendingStarted_iff.1 hs
    obtain hidle | ⟨l, M, hbusy⟩ | hsame := exec_progress h
    · cases hidle.symm.trans hcc
    · cases hbusy.symm.trans hcc
      exact absurd (instrChan_of_commandChan hchan) hi
    · exact sendingStarted_iff.2 ⟨j, k, L, n, hsame.trans hcc, hchan, hn, hlt⟩

/-! ### The step -/

/-- A device step and a refused request leave the flags and the call context alone (R242, R251 to R253, R259). -/
theorem environmentStep_keeps {x : Choice} {s t : State} (h : environmentStep s x = some t) :
    t.ch = s.ch ∧ t.cc = s.cc := by
  cases x with
  | move c =>
    simp only [environmentStep, moveStep] at h
    split at h <;> cases h
    exact ⟨rfl, rfl⟩
  | shift c =>
    simp only [environmentStep, shiftStep] at h
    split at h <;> cases h
    exact ⟨rfl, rfl⟩
  | arrive c b =>
    cases h
    unfold arriveStep
    split <;> exact ⟨rfl, rfl⟩
  | injTxc c =>
    simp only [environmentStep, injTxcStep] at h
    split at h <;> cases h
    exact ⟨rfl, rfl⟩
  | injRx c b =>
    simp only [environmentStep, injRxStep] at h
    split at h <;> cases h
    exact ⟨rfl, rfl⟩
  | forbidden y => cases h; exact ⟨rfl, rfl⟩
  | call        => cases h
  | event ev    => cases h
  | reset       => cases h

/-- Where a choice finds the instruction it runs: in the call context, or as an event vector's handler. -/
def Runs (x : Choice) (s : State) (i : Instr) : Prop :=
  (x = .call ∧ ∃ u, fetchCall s = .run i u) ∨ ∃ ev, x = .event ev ∧ i = decodeVector ev

/-- Everything a choice other than a hardware reset does to a channel's handshake. -/
theorem choiceStep_handshakeStep {x : Choice} {s t : State} (hx : x ≠ .reset) (h : choiceStep x s = .next t)
    (c : Chan) : (t.ch = s.ch ∧ t.cc = s.cc) ∨ ∃ i, Runs x s i ∧ HandshakeStep i c s t := by
  obtain rfl | ⟨rfl, i, u, hu, ht⟩ | ⟨-, u, hu, rfl⟩ | ⟨ev, rfl, -, ht⟩ | ht := choiceStep_cases hx h
  · exact .inl ⟨rfl, rfl⟩
  · refine .inr ⟨i, .inl ⟨rfl, u, hu⟩, ?_⟩
    have hstep := exec_handshakeStep ht c
    obtain ⟨_, _, _, rfl⟩ | ⟨_, _, _, _, _, rfl⟩ := fetchCall_run_cases hu
    · exact hstep
    · exact hstep.of_start rfl rfl rfl rfl id
  · obtain ⟨_, _, _, _, _, _, rfl⟩ := fetchCall_mismatched_cases hu
    exact .inl ⟨rfl, rfl⟩
  · exact .inr ⟨_, .inr ⟨ev, rfl, rfl⟩, exec_handshakeStep ht c⟩
  · exact .inl (environmentStep_keeps ht)

/-! ### O49: ARMED only inside a command that has set `active` -/

/-- R177 for one channel. -/
def ArmedAt (c : Chan) (s : State) : Prop := handshake (s.ch.get c) = .armed → sendingStarted s c = true

theorem HandshakeStep.armedAt {i : Instr} {c : Chan} {s t : State} (h : HandshakeStep i c s t) (hs : ArmedAt c s) :
    ArmedAt c t := by
  intro harmed
  cases h with
  | keeps hflags hsending => exact hsending (hs (hflags ▸ harmed))
  | initialises _ _ hflags => cases hflags.symm.trans harmed
  | writes b _ hflags =>
    rw [hflags] at harmed
    cases hactive : (s.ch.get c).active <;> simp [handshake, hactive] at harmed
  | activates k L hchan hindex _ hcc =>
    exact sendingStarted_iff.2 ⟨i, k + 1, L, k, hcc, hchan, hindex, k.lt_succ_self⟩
  | done _ _ _ hflags => cases hflags.symm.trans harmed

theorem step_armedInv {s t : State} (hs : ArmedInv s) (h : step s = .next t) : ArmedInv t := by
  intro c
  obtain ⟨rest, -, rfl⟩ | ⟨-, -, rfl⟩ | ⟨-, x, rest, -, hx, ht⟩ := step_cases h
  · rw [State.hardReset_ch]
    nofun
  · exact hs c
  · obtain ⟨hch, hcc⟩ | ⟨i, -, hi⟩ := choiceStep_handshakeStep hx ht c
    · rw [hch, sendingStarted, hcc]
      exact hs c
    · exact hi.armedAt (hs c)

/-- Settles O49: every step keeps `ArmedInv`, and an idle call context is inside no command. -/
theorem neverArmedAtACommandBoundary : Obligations.NeverArmedAtACommandBoundary := by
  refine ⟨fun s t => step_armedInv, fun s c hs hidle hready => ?_⟩
  by_contra hactive
  have hsending := hs c (by simp [handshake, hready, hactive])
  simp [sendingStarted, hidle] at hsending

/-! ### O51: the rows of the handshake's table -/

/-- What `ready <- false` does to each state of the handshake (R176). -/
theorem handshake_clear_ready (x : ChanState) :
    handshake { x with ready := false } = handshake x ∨
    (handshake x = .idle ∧ handshake { x with ready := false } = .single) ∨
    (handshake x = .armed ∧ handshake { x with ready := false } = .buffered) := by
  obtain ⟨_, ready, active, _, _⟩ := x
  cases ready <;> cases active <;> simp [handshake]

/-- What `active <- true` does to each state of the handshake (R176). -/
theorem handshake_set_active (x : ChanState) :
    handshake { x with active := true } = handshake x ∨
    (handshake x = .idle ∧ handshake { x with active := true } = .armed) ∨
    (handshake x = .single ∧ handshake { x with active := true } = .buffered) := by
  obtain ⟨_, ready, active, _, _⟩ := x
  cases ready <;> cases active <;> simp [handshake]

/-- Which states of the handshake have `active` set (R176). -/
theorem handshake_active_cases (x : ChanState) :
    ((handshake x = .idle ∨ handshake x = .single) ∧ x.active = false) ∨
    ((handshake x = .buffered ∨ handshake x = .armed) ∧ x.active = true) := by
  obtain ⟨_, ready, active, _, _⟩ := x
  cases ready <;> cases active <;> simp [handshake]

theorem decodeVector_eq_txcVector (c : Chan) :
    ∀ ev : BitVec 2, decodeVector (txcVector c) = decodeVector ev → ev = txcVector c := by
  cases c <;> decide

/-- A command runs in the call context. -/
theorem Runs.eq_call {x : Choice} {s : State} {i : Instr} {c : Chan} (h : Runs x s i) (hc : commandChan i = some c) :
    x = .call := by
  obtain ⟨hx, -⟩ | ⟨ev, -, rfl⟩ := h
  · exact hx
  · obtain ⟨hnone, -⟩ := decodeVector_no_command ev
    rw [commandChan, hnone] at hc
    cases hc

/-- In a state of the invariant, an event vector's instruction runs as that vector's handler. -/
theorem Runs.eq_event {x : Choice} {s : State} {c : Chan} (hinv : MachineInv s)
    (h : Runs x s (decodeVector (txcVector c))) : x = .event (txcVector c) := by
  obtain ⟨-, u, hu⟩ | ⟨ev, rfl, hev⟩ := h
  · obtain ⟨-, -, -, hcmd, -⟩ := hinv.fetchCall_run hu
    exact absurd rfl (hcmd _)
  · rw [decodeVector_eq_txcVector c ev hev]

/-- Settles O51: the rows are the cases of `HandshakeStep`, and the choice that runs the instruction is the row's
trigger. -/
theorem handshakeMovesOnlyAlongItsTable : Obligations.HandshakeMovesOnlyAlongItsTable := by
  intro s t c x rest hinv hinit hs hx h
  obtain ⟨rest', hs', -⟩ | ⟨-, hs', -⟩ | ⟨-, y, rest', hs', -, ht⟩ := step_cases h
  · exact absurd (List.cons.inj (hs.symm.trans hs')).1 hx
  · cases hs.symm.trans hs'
  · cases hs.symm.trans hs'
    have hinv' : MachineInv { s with sched := rest } := hinv
    obtain ⟨hch, -⟩ | ⟨i, hruns, hi⟩ := choiceStep_handshakeStep hx ht c
    · exact .inl (by rw [hch])
    · cases hi with
      | keeps hflags => exact .inl hflags
      | initialises _ huninit => exact absurd (hinit.symm.trans huninit) nofun
      | writes b hchan hflags hcc htrace =>
        rw [hflags]
        exact (handshake_clear_ready _).imp id fun hrow => .inl ⟨hruns.eq_call hchan, hcc, ⟨b, htrace⟩, hrow⟩
      | activates k L hchan hindex hflags hcc =>
        rw [hflags]
        exact (handshake_set_active _).imp id fun hrow =>
          .inr (.inl ⟨hruns.eq_call hchan, ⟨i, k + 1, L, hcc, hchan, activeIndex_cases hindex⟩, hrow⟩)
      | done hi hpend hempty hflags =>
        have hx : x = .event (txcVector c) := Runs.eq_event hinv' (hi ▸ hruns)
        obtain ⟨hidle | hsingle, -⟩ | ⟨hrow, hactive⟩ := handshake_active_cases (s.ch.get c)
        · exact .inl (hflags.trans hidle.symm)
        · exact .inr (.inr (.inr ⟨hx, hpend, hflags, .inl hsingle⟩))
        · have hlen := hempty.resolve_left (ne_true_of_eq_false · hactive)
          exact .inr (.inr (.inr ⟨hx, hpend, hflags, .inr ⟨hrow, hlen⟩⟩))

end Sys2Proof.Machine
end

section
/-! PROOFS of O56 and O57: whole transfers. A transmit-complete event that is taken either moves one queued byte into
the TDR or ends the transfer (`Buffered.event_next`, `Serviced.event_last`); a run is an induction over the events (O56)
or over the queued bytes (O57), the choices still to come left open. -/

namespace Sys2Proof.Machine

/-! ### Runs of several steps -/

theorem run_add {m n : Nat} {s t : State} (h : core.run m s = .next t) : core.run (m + n) s = core.run n t := by
  induction m generalizing s with
  | zero =>
    cases h
    rw [Nat.zero_add]
  | succ m ih =>
    rw [Nat.succ_add]
    simp only [Host.Core.run] at h ⊢
    cases hstep : core.step s with
    | next u    => rw [hstep] at h; exact ih h
    | fault f   => rw [hstep] at h; cases h
    | refused r => rw [hstep] at h; cases h

/-- In `n` steps the machine comes from `s` to `t`, where the choices `rest` are left, and emits `events`. -/
structure Reaches (n : Nat) (s : State) (rest : List Choice) (events : List Event) (t : State) : Prop where
  run   : core.run n s = .next t
  cfg   : t.cfg = s.cfg
  sched : t.sched = rest
  trace : t.trace = s.trace ++ events

theorem Reaches.refl (s : State) : Reaches 0 s s.sched [] s := ⟨rfl, rfl, rfl, (List.append_nil _).symm⟩

theorem Reaches.of_step {s t : State} {rest : List Choice} {events : List Event} (h : step s = .next t)
    (hcfg : t.cfg = s.cfg) (hsched : t.sched = rest) (htrace : t.trace = s.trace ++ events) :
    Reaches 1 s rest events t := by
  refine ⟨?_, hcfg, hsched, htrace⟩
  simp only [Host.Core.run, show core.step s = .next t from h]

theorem Reaches.trans {m n : Nat} {s u t : State} {rest rest' : List Choice} {events events' : List Event}
    (h : Reaches m s rest events u) (h' : Reaches n u rest' events' t) :
    Reaches (m + n) s rest' (events ++ events') t :=
  ⟨(run_add h.run).trans h'.run, h'.cfg.trans h.cfg, h'.sched, by rw [h'.trace, h.trace, List.append_assoc]⟩

/-! ### A channel whose transmit-complete events are serviced -/

/-- The transmit engine of channel `c` runs as soon as its event is pending (R234). -/
structure Serviced (c : Chan) (s : State) : Prop where
  faults  : s.faults = none
  refused : s.refused = false
  init    : (s.ch.get c).init = true
  txie    : (s.hal.get c).txie = true

/-- A buffered transfer is under way with `bytes` still queued (R176). -/
structure Buffered (c : Chan) (bytes : List Byte) (s : State) : Prop extends Serviced c s where
  flags : handshake (s.ch.get c) = .buffered
  wf    : (s.tx.get c).wf
  queue : (s.tx.get c).queue = bytes.map some

/-- The transfer is over (R176). -/
structure Over (c : Chan) (s : State) : Prop extends Serviced c s where
  flags : handshake (s.ch.get c) = .idle
  len   : (s.tx.get c).len = 0

theorem handshake_eq_idle_iff {x : ChanState} : handshake x = .idle ↔ x.ready = true ∧ x.active = false := by
  obtain ⟨_, ready, active, _, _⟩ := x
  cases ready <;> cases active <;> simp [handshake]

theorem Over.ready {c : Chan} {s : State} (h : Over c s) : (s.ch.get c).ready = true :=
  (handshake_eq_idle_iff.1 h.flags).1

/-- The choice of the channel's transmit-complete vector runs the transmit engine. -/
theorem Serviced.step_txcVector {c : Chan} {s : State} {rest : List Choice} (h : Serviced c s)
    (hpend : (s.hal.get c).txcPend = true) (hs : s.sched = .event (txcVector c) :: rest) :
    step s = settle { s with sched := rest } (txcHandler c { s with sched := rest }) := by
  have he : vectorEnabled (txcVector c) s = true := by
    have : handlerEnabled s c .txc = true := (handlerEnabled_iff h.faults).2 ⟨hpend, h.txie, h.refused⟩
    cases c <;> exact this
  rw [step_event h.faults hs, if_pos he, exec_decodeVector]
  cases c <;> exact takeEvent_run he

/-- A device step that keeps the source enabled. -/
theorem Serviced.device {c : Chan} {s : State} (h : Serviced c s) {d : Device} (hd : d.txie = (s.hal.get c).txie)
    (tr : List Event) (rest : List Choice) :
    Serviced c { s with hal := s.hal.set c d, trace := tr, sched := rest } :=
  ⟨h.faults, h.refused, h.init, by rw [PerChan.get_set_same, hd, h.txie]⟩

theorem Buffered.device {c : Chan} {bytes : List Byte} {s : State} (h : Buffered c bytes s) {d : Device}
    (hd : d.txie = (s.hal.get c).txie) (tr : List Event) (rest : List Choice) :
    Buffered c bytes { s with hal := s.hal.set c d, trace := tr, sched := rest } :=
  ⟨h.toServiced.device hd tr rest, h.flags, h.wf, h.queue⟩

theorem Buffered.len {c : Chan} {bytes : List Byte} {s : State} (h : Buffered c bytes s) :
    (s.tx.get c).len = bytes.length := by
  rw [← Ring.queue_length, h.queue, List.length_map]

theorem Buffered.active {c : Chan} {bytes : List Byte} {s : State} (h : Buffered c bytes s) :
    (s.ch.get c).active = true := by
  obtain ⟨hflags | hflags, -⟩ | ⟨-, hactive⟩ := handshake_active_cases (s.ch.get c)
  · cases h.flags.symm.trans hflags
  · cases h.flags.symm.trans hflags
  · exact hactive

/-- With a byte queued, a transmit-complete event moves the oldest into the TDR (R171, R175). -/
theorem Buffered.event_next {c : Chan} {b : Byte} {bytes : List Byte} {s : State} {rest : List Choice}
    (h : Buffered c (b :: bytes) s) (hpend : (s.hal.get c).txcPend = true)
    (htdr : (s.hal.get c).tdr = none ∨ s.cfg.envModel = .free) (hs : s.sched = .event (txcVector c) :: rest) :
    ∃ t, Reaches 1 s rest [.tdrWrite c b .engine] t ∧ Buffered c bytes t ∧
      t.hal.get c = { s.hal.get c with txcPend := false, tdr := some b } := by
  have hlen : (s.tx.get c).len ≠ 0 := by simp [h.len]
  have hpop := (s.tx.get c).popFront_some (Config.freeByte s.draws) hlen
  obtain ⟨hb, hqueue⟩ := List.cons.inj ((h.wf.queue_popFront hpop).symm.trans h.queue)
  have hstep := h.step_txcVector hpend hs
  rw [txcHandler_next_ok (s := { s with sched := rest }) h.init h.active hlen htdr, settle_ok,
    Option.some.inj hb] at hstep
  refine ⟨_, .of_step hstep rfl rfl rfl, ⟨⟨h.faults, h.refused, h.init, ?_⟩, h.flags, ?_, ?_⟩,
    PerChan.get_set_same ..⟩
  · simpa using h.txie
  · simpa using h.wf.popFront hpop
  · simpa using hqueue

/-- With the ring empty, a transmit-complete event ends the transfer, or leaves it ended (R171, R175). -/
theorem Serviced.event_last {c : Chan} {s : State} {rest : List Choice} (h : Serviced c s)
    (hlen : (s.tx.get c).len = 0) (hpend : (s.hal.get c).txcPend = true)
    (hs : s.sched = .event (txcVector c) :: rest) :
    ∃ t, Reaches 1 s rest [] t ∧ Over c t ∧ t.hal.get c = { s.hal.get c with txcPend := false } := by
  have hstep := h.step_txcVector hpend hs
  rw [txcHandler_done (s := { s with sched := rest }) h.init (.inr hlen), settle_ok] at hstep
  refine ⟨_, .of_step hstep rfl rfl (List.append_nil _).symm, ⟨⟨h.faults, h.refused, ?_, ?_⟩, ?_, hlen⟩,
    PerChan.get_set_same ..⟩
  · simpa [doneWith, clearTxcPend] using h.init
  · simpa [doneWith, clearTxcPend] using h.txie
  · simp [doneWith, handshake]

/-! ### O56: injected events -/

/-- The injection of a transmit-complete event (R259). -/
theorem reaches_injTxc {c : Chan} {s : State} {rest : List Choice} (hf : s.faults = none)
    (hfree : s.cfg.envModel = .free) (hs : s.sched = .injTxc c :: rest) :
    Reaches 1 s rest []
      { s with hal := s.hal.set c { s.hal.get c with txcPend := true }, trace := s.trace, sched := rest } := by
  refine .of_step ?_ rfl rfl (List.append_nil _).symm
  rw [step_cons hs nofun hf]
  simp [choiceStep, environmentStep, injTxcStep, hfree, State.setHal]

theorem Buffered.injected_next {c : Chan} {b : Byte} {bytes : List Byte} {s : State} {rest : List Choice}
    (h : Buffered c (b :: bytes) s) (hfree : s.cfg.envModel = .free)
    (hs : s.sched = .injTxc c :: .event (txcVector c) :: rest) :
    ∃ t, Reaches 2 s rest [.tdrWrite c b .engine] t ∧ Buffered c bytes t := by
  obtain ⟨t, ht, hbuf, -⟩ := (h.device (d := { s.hal.get c with txcPend := true }) rfl s.trace
    (.event (txcVector c) :: rest)).event_next (by simp) (.inr hfree) rfl
  exact ⟨t, (reaches_injTxc h.faults hfree hs).trans ht, hbuf⟩

theorem Serviced.injected_last {c : Chan} {s : State} {rest : List Choice} (h : Serviced c s)
    (hlen : (s.tx.get c).len = 0) (hfree : s.cfg.envModel = .free)
    (hs : s.sched = .injTxc c :: .event (txcVector c) :: rest) : ∃ t, Reaches 2 s rest [] t ∧ Over c t := by
  obtain ⟨t, ht, hover, -⟩ := (h.device (d := { s.hal.get c with txcPend := true }) rfl s.trace
    (.event (txcVector c) :: rest)).event_last hlen (by simp) rfl
  exact ⟨t, (reaches_injTxc h.faults hfree hs).trans ht, hover⟩

theorem injectedEvents_add (c : Chan) (m n : Nat) :
    injectedEvents c (m + n) = injectedEvents c m ++ injectedEvents c n := by
  rw [injectedEvents, List.replicate_add, List.flatten_append, injectedEvents, injectedEvents]

/-- As many events as there are bytes in `sent` write those bytes, in order. -/
theorem Buffered.injectedEvents_next {c : Chan} {sent bytes : List Byte} {s : State} {rest : List Choice}
    (h : Buffered c (sent ++ bytes) s) (hfree : s.cfg.envModel = .free)
    (hs : s.sched = injectedEvents c sent.length ++ rest) :
    ∃ t, Reaches (2 * sent.length) s rest (sent.map fun b => .tdrWrite c b .engine) t ∧ Buffered c bytes t := by
  induction sent generalizing s with
  | nil =>
    obtain rfl : s.sched = rest := hs
    exact ⟨s, .refl s, h⟩
  | cons b sent ih =>
    obtain ⟨u, hu, hbuf⟩ := h.injected_next hfree hs
    obtain ⟨t, ht, hbuf'⟩ := ih hbuf (hu.cfg ▸ hfree) hu.sched
    refine ⟨t, ?_, hbuf'⟩
    rw [List.length_cons, Nat.mul_succ, Nat.add_comm]
    exact hu.trans ht

/-- With the ring empty, one event or more end the transfer and write nothing. -/
theorem Serviced.injectedEvents_last {c : Chan} {n : Nat} {s : State} (h : Serviced c s)
    (hlen : (s.tx.get c).len = 0) (hfree : s.cfg.envModel = .free) (hs : s.sched = injectedEvents c (n + 1)) :
    ∃ t, Reaches (2 * (n + 1)) s [] [] t ∧ Over c t := by
  induction n generalizing s with
  | zero => exact h.injected_last hlen hfree hs
  | succ n ih =>
    obtain ⟨u, hu, hover⟩ := h.injected_last hlen hfree hs
    obtain ⟨t, ht, hover'⟩ := ih hover.toServiced hover.len (hu.cfg ▸ hfree) hu.sched
    refine ⟨t, ?_, hover'⟩
    rw [Nat.mul_succ, Nat.add_comm]
    exact hu.trans ht

/-- Settles O56: the events up to the `m`-th each write a byte, and those after it find the ring empty. -/
theorem transmitEventsDrainTheRingInOrder : Obligations.TransmitEventsDrainTheRingInOrder := by
  intro c s bytes hfree hf hr hinit htxie hwf hflags hqueue
  have start : ∀ sched, Buffered c bytes { s with sched := sched } := fun _ =>
    ⟨⟨hf, hr, hinit, htxie⟩, hflags, hwf, hqueue⟩
  refine ⟨fun n hn => ?_, fun n hn => ?_⟩
  · have hlen : (bytes.take n).length = n := List.length_take_of_le hn
    have hbuf := start (injectedEvents c n)
    rw [← List.take_append_drop n bytes] at hbuf
    obtain ⟨t, ht, hbuf'⟩ := hbuf.injectedEvents_next (rest := []) hfree (by rw [hlen, List.append_nil])
    rw [hlen] at ht
    exact ⟨t, ht.run, ht.trace, hbuf'.queue, hbuf'.flags⟩
  · obtain ⟨k, rfl⟩ : ∃ k, n = bytes.length + (k + 1) := ⟨n - bytes.length - 1, by omega⟩
    have hbuf : Buffered c (bytes ++ []) { s with sched := injectedEvents c (bytes.length + (k + 1)) } := by
      rw [List.append_nil]
      exact start _
    obtain ⟨u, hu, hbuf'⟩ := hbuf.injectedEvents_next hfree (injectedEvents_add c bytes.length (k + 1))
    obtain ⟨t, ht, hover⟩ := hbuf'.injectedEvents_last hbuf'.len (hu.cfg ▸ hfree) hu.sched
    have hall := hu.trans ht
    rw [← Nat.mul_add, List.append_nil (List.map _ _)] at hall
    exact ⟨t, hall.run, hall.trace, hover.len, hover.flags⟩

/-! ### O57: bytes on the line -/

theorem lineBytes_append (c : Chan) (tr tr' : List Event) :
    lineBytes c (tr ++ tr') = lineBytes c tr ++ lineBytes c tr' := List.filterMap_append

theorem step_move {c : Chan} {b : Byte} {s : State} {rest : List Choice} (hf : s.faults = none)
    (htdr : (s.hal.get c).tdr = some b) (htsr : (s.hal.get c).tsr = none) (hs : s.sched = .move c :: rest) :
    step s = .next { s with
      hal := s.hal.set c { s.hal.get c with tsr := some b, tdr := none }, sched := rest } := by
  rw [step_cons hs nofun hf]
  simp [choiceStep, environmentStep, moveStep, htdr, htsr, State.setHal]

/-- SHIFT raises the transmit-complete event, because the TDR is empty (R252). -/
theorem step_shift {c : Chan} {b : Byte} {s : State} {rest : List Choice} (hf : s.faults = none)
    (htdr : (s.hal.get c).tdr = none) (htsr : (s.hal.get c).tsr = some b) (hs : s.sched = .shift c :: rest) :
    step s = .next { s with
      hal := s.hal.set c { s.hal.get c with tsr := none, txcPend := true }
      trace := s.trace ++ [.line c b], sched := rest } := by
  rw [step_cons hs nofun hf]
  simp [choiceStep, environmentStep, shiftStep, htdr, htsr, State.setHal, State.emit]

/-- MOVE and SHIFT put the byte in the TDR on the line, and leave its transmit-complete event pending (R251, R252). -/
theorem Buffered.line {c : Chan} {b : Byte} {bytes : List Byte} {s : State} {rest : List Choice}
    (h : Buffered c bytes s) (htdr : (s.hal.get c).tdr = some b) (htsr : (s.hal.get c).tsr = none)
    (hs : s.sched = .move c :: .shift c :: rest) :
    ∃ t, Reaches 2 s rest [.line c b] t ∧ Buffered c bytes t ∧
      (t.hal.get c).tdr = none ∧ (t.hal.get c).tsr = none ∧ (t.hal.get c).txcPend = true := by
  have hmove := step_move h.faults htdr htsr hs
  have hmoved := h.device (d := { s.hal.get c with tsr := some b, tdr := none }) rfl s.trace (.shift c :: rest)
  have hshift := step_shift (b := b) hmoved.faults (by simp) (by simp) rfl
  refine ⟨_, (Reaches.of_step hmove rfl rfl (List.append_nil _).symm).trans (.of_step hshift rfl rfl rfl),
    hmoved.device ?_ _ _, ?_⟩
  · rfl
  · simp

/-- A buffered transfer with `first` in the TDR puts it and the queued bytes on the line and ends (R178). -/
theorem Buffered.reaches_over {c : Chan} {first : Byte} {bytes : List Byte} {s : State} (h : Buffered c bytes s)
    (htdr : (s.hal.get c).tdr = some first) (htsr : (s.hal.get c).tsr = none)
    (hs : s.sched = byteTimes c (bytes.length + 1)) :
    ∃ t events, Reaches (3 * (bytes.length + 1)) s [] events t ∧ lineBytes c events = first :: bytes ∧ Over c t ∧
      (t.hal.get c).tdr = none ∧ (t.hal.get c).tsr = none ∧ (t.hal.get c).txcPend = false := by
  induction bytes generalizing first s with
  | nil =>
    obtain ⟨u, hu, hbuf, htdr', htsr', hpend⟩ := h.line htdr htsr hs
    obtain ⟨t, ht, hover, hhal⟩ := hbuf.event_last hbuf.len hpend hu.sched
    refine ⟨t, _, hu.trans ht, by simp [lineBytes], hover, ?_⟩
    rw [hhal]
    exact ⟨htdr', htsr', rfl⟩
  | cons b bytes ih =>
    obtain ⟨u, hu, hbuf, htdr', htsr', hpend⟩ := h.line htdr htsr hs
    obtain ⟨v, hv, hbuf', hhal⟩ := hbuf.event_next hpend (.inl htdr') hu.sched
    obtain ⟨t, events, ht, hevents, hend⟩ := ih (first := b) hbuf' (by rw [hhal]) (by rw [hhal]; exact htsr') hv.sched
    refine ⟨t, [.line c first] ++ [.tdrWrite c b .engine] ++ events, ?_, ?_, hend⟩
    · rw [List.length_cons, Nat.mul_succ, Nat.add_comm]
      exact (hu.trans hv).trans ht
    · rw [lineBytes_append, hevents]
      simp [lineBytes]

/-- Settles O57: the transmitter is quiet because the last event found the ring, the TDR and the TSR empty. -/
theorem bufferedTransferReachesTheLineInOrder : Obligations.BufferedTransferReachesTheLineInOrder := by
  intro c s first bytes hf hr hinit htxie hwf hflags hqueue htdr htsr
  have hbuf : Buffered c bytes { s with sched := byteTimes c (bytes.length + 1) } :=
    ⟨⟨hf, hr, hinit, htxie⟩, hflags, hwf, hqueue⟩
  obtain ⟨t, events, ht, hevents, hover, htdr', htsr', hpend⟩ := hbuf.reaches_over htdr htsr rfl
  refine ⟨t, ht.run, ?_, hover.len, hover.flags, ?_⟩
  · rw [ht.trace, lineBytes_append, hevents]
  · simp [quiet, hover.ready, htdr', htsr', hpend]

end Sys2Proof.Machine
end

section
/-! PROOFS of O35, O36, O37 and O58. With a byte in the RDR the receive engine has three ends: the callback, a push, or
one increment of the overflow counter. One equation for each; a run of serviced arrivals is then an induction over the
bytes, the room left in the ring counted down. -/

namespace Sys2Proof.Machine

/-! ### The overflow increment -/

section
variable {cfg : Config} {v : Nat}

theorem ovfInc_below (h : v < 2 ^ cfg.ovfWidth - 1) : ovfInc cfg v = v + 1 := if_pos h

theorem ovfInc_wrap (h : 2 ^ cfg.ovfWidth - 1 ≤ v) (hmode : cfg.ovfAtMax = .wrap) : ovfInc cfg v = 0 := by
  rw [ovfInc, Config.ovfMax, if_neg (Nat.not_lt.2 h), hmode]

theorem ovfInc_saturate (h : 2 ^ cfg.ovfWidth - 1 ≤ v) (hmode : cfg.ovfAtMax = .saturate) : ovfInc cfg v = v := by
  rw [ovfInc, Config.ovfMax, if_neg (Nat.not_lt.2 h), hmode]

end

/-! ### The ends of the receive engine -/

theorem bufferOrCount_room {c : Chan} (b : Byte) {s : State} (hroom : (s.rx.get c).len < (s.rx.get c).cap) :
    bufferOrCount c b s = s.setRx c ((s.rx.get c).pushBack b).2 := by
  simp [bufferOrCount, pushRx, Ring.pushBack_room _ b hroom]

theorem bufferOrCount_full {c : Chan} (b : Byte) {s : State} (hfull : (s.rx.get c).cap ≤ (s.rx.get c).len) :
    bufferOrCount c b s = s.setCh c { s.ch.get c with ovf := ovfInc s.cfg (s.ch.get c).ovf } := by
  simp [bufferOrCount, pushRx, Ring.pushBack_full _ b hfull, State.setRx]

section
variable {c : Chan} {b : Byte} {s : State} (hinit : (s.ch.get c).init = true) (hrdr : (s.hal.get c).rdr = some b)
include hinit hrdr

/-- With a callback the engine invokes it (R191, R197). -/
theorem rxcHandler_callback {tok : Token} (hcb : (s.ch.get c).cb = some tok) :
    rxcHandler c s = .ok { s with
      hal := s.hal.set c { s.hal.get c with rdr := none, rxcPend := false }
      trace := s.trace ++ [.callback c tok b] } := by
  simp [rxcHandler, halReadRdr_some c b s hrdr, hinit, hcb, State.setHal, State.emit]

variable (hcb : (s.ch.get c).cb = none)
include hcb

/-- With no callback the engine takes the buffering path (R191, R194). -/
theorem rxcHandler_noCallback :
    rxcHandler c s =
      .ok (bufferOrCount c b (s.setHal c { s.hal.get c with rdr := none, rxcPend := false })) := by
  simp [rxcHandler, halReadRdr_some c b s hrdr, hinit, hcb]

/-- While there is room the byte is pushed (R191, R104). -/
theorem rxcHandler_room (hroom : (s.rx.get c).len < (s.rx.get c).cap) :
    rxcHandler c s = .ok { s with
      hal := s.hal.set c { s.hal.get c with rdr := none, rxcPend := false }
      rx := s.rx.set c ((s.rx.get c).pushBack b).2 } :=
  (rxcHandler_noCallback hinit hrdr hcb).trans (congrArg Except.ok (bufferOrCount_room b hroom))

/-- A full ring stays as it is, and the byte is counted (R195, R196). -/
theorem rxcHandler_full (hfull : (s.rx.get c).cap ≤ (s.rx.get c).len) :
    rxcHandler c s = .ok { s with
      hal := s.hal.set c { s.hal.get c with rdr := none, rxcPend := false }
      ch := s.ch.set c { s.ch.get c with ovf := ovfInc s.cfg (s.ch.get c).ovf } } :=
  (rxcHandler_noCallback hinit hrdr hcb).trans (congrArg Except.ok (bufferOrCount_full b hfull))

end

/-- The receive-complete vector of a channel runs the receive engine when its source is enabled (R76, R234). -/
theorem exec_rxc {i : Instr} {c : Chan} {s : State} (hi : (i, c) ∈ [(Instr.rxc0, Chan.c0), (.rxc1, .c1)])
    (he : handlerEnabled s c .rxc = true) : exec i s = settle s (rxcHandler c s) := by
  simp only [List.mem_cons, List.not_mem_nil, or_false, Prod.mk.injEq] at hi
  obtain ⟨rfl, rfl⟩ | ⟨rfl, rfl⟩ := hi <;> exact takeEvent_run he

/-- Settles O35: the callback end of the receive engine. -/
theorem receiveEngineInvokesTheCallback : Obligations.ReceiveEngineInvokesTheCallback := by
  intro i c b tok s hi ⟨he, hinit⟩ hrdr hcb
  rw [exec_rxc hi he, rxcHandler_callback hinit hrdr hcb, settle_ok]

/-- Settles O36: the ring is the one the push leaves, which differs in its tail cell alone. -/
theorem receiveEngineBuffersTheByte : Obligations.ReceiveEngineBuffersTheByte := by
  intro i c b s hi ⟨he, hinit⟩ hrdr hcb hroom
  refine ⟨((s.rx.get c).pushBack b).2, ?_, ?_⟩
  · rw [exec_rxc hi he, rxcHandler_room hinit hrdr hcb hroom, settle_ok]
  · rw [Ring.pushBack_room _ b hroom]
    exact ⟨rfl, rfl, rfl, rfl, Memory.read_write_same _ _ b, fun _ => Memory.read_write_other _ b⟩

/-- Settles O37: the counter's new value is `ovf_inc` of the old one. -/
theorem receiveEngineCountsTheDroppedByte : Obligations.ReceiveEngineCountsTheDroppedByte := by
  intro i c b s hi ⟨he, hinit⟩ hrdr hcb hfull
  refine ⟨ovfInc s.cfg (s.ch.get c).ovf, ?_, ovfInc_below, ovfInc_wrap, ovfInc_saturate⟩
  rw [exec_rxc hi he, rxcHandler_full hinit hrdr hcb hfull, settle_ok]

/-! ### O58: serviced arrivals -/

/-- Channel `c` buffers what arrives: its receive engine runs as soon as its event is pending, the RDR is empty, no
callback is installed, and the ring has `room` for that many bytes more (R194, R234). -/
structure Receiving (c : Chan) (room : Nat) (s : State) : Prop where
  faults  : s.faults = none
  refused : s.refused = false
  init    : (s.ch.get c).init = true
  cb      : (s.ch.get c).cb = none
  rxie    : (s.hal.get c).rxie = true
  rdr     : (s.hal.get c).rdr = none
  wf      : (s.rx.get c).wf
  cap     : (s.rx.get c).cap = (s.rx.get c).len + room

/-- The machine after a byte has come into the empty RDR, the choices `rest` left (R253). -/
def State.arrived (s : State) (c : Chan) (b : Byte) (rest : List Choice) : State :=
  { s with hal := s.hal.set c { s.hal.get c with rdr := some b, rxcPend := true }, sched := rest }

@[simp] theorem State.arrived_hal (s : State) (c : Chan) (b : Byte) (rest : List Choice) :
    (s.arrived c b rest).hal.get c = { s.hal.get c with rdr := some b, rxcPend := true } :=
  PerChan.get_set_same ..
@[simp] theorem State.arrived_cfg (s : State) (c : Chan) (b : Byte) (rest : List Choice) :
    (s.arrived c b rest).cfg = s.cfg := rfl
@[simp] theorem State.arrived_ch (s : State) (c : Chan) (b : Byte) (rest : List Choice) :
    (s.arrived c b rest).ch = s.ch := rfl
@[simp] theorem State.arrived_rx (s : State) (c : Chan) (b : Byte) (rest : List Choice) :
    (s.arrived c b rest).rx = s.rx := rfl

theorem step_arrive {c : Chan} {b : Byte} {s : State} {rest : List Choice} (hf : s.faults = none)
    (hrdr : (s.hal.get c).rdr = none) (hs : s.sched = .arrive c b :: rest) :
    step s = .next (s.arrived c b rest) := by
  rw [step_cons hs nofun hf]
  simp [choiceStep, environmentStep, arriveStep, hrdr, State.setHal, State.arrived]

/-- The choice of the channel's receive-complete vector runs the receive engine. -/
theorem step_rxcVector {c : Chan} {s : State} {rest : List Choice} (he : handlerEnabled s c .rxc = true)
    (hs : s.sched = .event (rxcVector c) :: rest) :
    step s = settle { s with sched := rest } (rxcHandler c { s with sched := rest }) := by
  have henabled : vectorEnabled (rxcVector c) s = true := by cases c <;> exact he
  rw [step_event (handlerEnabled_faults he) hs, if_pos henabled, exec_decodeVector]
  cases c <;> exact takeEvent_run he

namespace Receiving

section
variable {c : Chan} {room : Nat} {b : Byte} {s : State} {rest : List Choice}

/-- An arrival and the handler's run after it are two steps, to the state the receive engine leaves (R198). -/
theorem reaches {t : State} (h : Receiving c room s)
    (hs : s.sched = .arrive c b :: .event (rxcVector c) :: rest)
    (ht : rxcHandler c (s.arrived c b rest) = .ok t)
    (hcfg : t.cfg = s.cfg) (hsched : t.sched = rest) (htrace : t.trace = s.trace) : Reaches 2 s rest [] t := by
  have he : handlerEnabled (s.arrived c b (.event (rxcVector c) :: rest)) c .rxc = true :=
    (handlerEnabled_iff (s := s.arrived c b _) h.faults).2
      ⟨by simp [Device.pending], by simpa [Device.enable] using h.rxie, h.refused⟩
  have hevent : step (s.arrived c b (.event (rxcVector c) :: rest)) = .next t :=
    (step_rxcVector he rfl).trans (congrArg (settle _) ht)
  exact (Reaches.of_step (step_arrive h.faults h.rdr hs) rfl rfl (List.append_nil _).symm).trans
    (.of_step hevent hcfg hsched (htrace.trans (List.append_nil _).symm))

/-- While there is room, a serviced arrival joins the ring (R191, R198). -/
theorem arrival_room (h : Receiving c (room + 1) s) (hs : s.sched = .arrive c b :: .event (rxcVector c) :: rest) :
    ∃ t, Reaches 2 s rest [] t ∧ Receiving c room t ∧ (t.rx.get c).queue = (s.rx.get c).queue ++ [some b] ∧
      (t.ch.get c).ovf = (s.ch.get c).ovf ∧ (t.hal.get c).lost = (s.hal.get c).lost := by
  have hcap := h.cap
  have hroom : (s.rx.get c).len < (s.rx.get c).cap := by omega
  have ht := rxcHandler_room (b := b) (s := s.arrived c b rest) h.init (by simp) h.cb hroom
  have hcap' : ((s.rx.get c).pushBack b).2.cap = ((s.rx.get c).pushBack b).2.len + room := by
    rw [Ring.pushBack_room _ b hroom]
    show (s.rx.get c).cap = (s.rx.get c).len + 1 + room
    omega
  refine ⟨_, h.reaches hs ht rfl rfl rfl, ⟨h.faults, h.refused, h.init, h.cb, ?_, ?_, ?_, ?_⟩, ?_, rfl, ?_⟩
  · simpa using h.rxie
  · simp
  · simpa using h.wf.pushBack b
  · simpa using hcap'
  · simpa using h.wf.queue_pushBack hroom b
  · simp

/-- With no room left, a serviced arrival is counted once and the ring stays as it is (R195, R196). -/
theorem arrival_full (h : Receiving c 0 s) (hs : s.sched = .arrive c b :: .event (rxcVector c) :: rest) :
    ∃ t, Reaches 2 s rest [] t ∧ Receiving c 0 t ∧ t.rx.get c = s.rx.get c ∧
      (t.ch.get c).ovf = ovfInc s.cfg (s.ch.get c).ovf ∧ (t.hal.get c).lost = (s.hal.get c).lost := by
  have ht := rxcHandler_full (b := b) (s := s.arrived c b rest) h.init (by simp) h.cb h.cap.le
  refine ⟨_, h.reaches hs ht rfl rfl rfl, ⟨h.faults, h.refused, ?_, ?_, ?_, ?_, h.wf, h.cap⟩, rfl, ?_, ?_⟩
  · simpa using h.init
  · simpa using h.cb
  · simpa using h.rxie
  · simp
  · simp
  · simp

end

/-- Serviced arrivals join the ring in order while there is room, and the later ones are counted (R195, R196, R198). -/
theorem arrivals {c : Chan} {room : Nat} {bytes : List Byte} {s : State} (h : Receiving c room s)
    (hs : s.sched = servicedArrivals c bytes) :
    ∃ t, Reaches (2 * bytes.length) s [] [] t ∧ Receiving c (room - bytes.length) t ∧
      (t.rx.get c).queue = (s.rx.get c).queue ++ (bytes.take room).map some ∧
      (t.ch.get c).ovf = (ovfInc s.cfg)^[bytes.length - room] (s.ch.get c).ovf ∧
      (t.hal.get c).lost = (s.hal.get c).lost := by
  induction bytes generalizing room s with
  | nil => exact ⟨s, ⟨rfl, rfl, hs, (List.append_nil _).symm⟩, h, by simp, by simp, rfl⟩
  | cons b bytes ih =>
    rw [List.length_cons, Nat.mul_succ, Nat.add_comm (2 * _)]
    cases room with
    | succ room =>
      obtain ⟨u, hu, hrec, hqueue, hovf, hlost⟩ := h.arrival_room hs
      obtain ⟨t, ht, hrec', hqueue', hovf', hlost'⟩ := ih hrec hu.sched
      refine ⟨t, hu.trans ht, by rwa [Nat.add_sub_add_right], ?_, ?_, hlost'.trans hlost⟩
      · simp [hqueue', hqueue]
      · rw [hovf', hovf, hu.cfg, Nat.add_sub_add_right]
    | zero =>
      obtain ⟨u, hu, hrec, hring, hovf, hlost⟩ := h.arrival_full hs
      obtain ⟨t, ht, hrec', hqueue', hovf', hlost'⟩ := ih hrec hu.sched
      refine ⟨t, hu.trans ht, by simpa using hrec', ?_, ?_, hlost'.trans hlost⟩
      · simp [hqueue', hring]
      · rw [hovf', hovf, hu.cfg]
        exact (Function.iterate_succ_apply ..).symm

end Receiving

/-- Settles O58: the ring's room at the start is its capacity less its occupancy. -/
theorem arrivalsAreBufferedInOrderThenCounted : Obligations.ArrivalsAreBufferedInOrderThenCounted := by
  intro c s bytes hf hr hinit hrxie hwf hcb hrdr
  have hrec : Receiving c ((s.rx.get c).cap - (s.rx.get c).len) { s with sched := servicedArrivals c bytes } :=
    ⟨hf, hr, hinit, hcb, hrxie, hrdr, hwf, (Nat.add_sub_cancel' hwf.1).symm⟩
  obtain ⟨t, ht, hrec', hqueue, hovf, hlost⟩ := hrec.arrivals rfl
  exact ⟨t, ht.run, hqueue, hovf, hrec'.rdr, hlost, ht.trace.trans (List.append_nil _)⟩

end Sys2Proof.Machine
end

section
/-! PROOFS of O14, O15, O16 and O18: channel control. INIT's one micro-step has two ends, the default state or REINIT
(O15), and SETBAUD's has two (O18). The second half of O16 is one walk over the instructions and the device steps with
the predicate `Provisioned`: no update clears `init` or writes a capacity, and INIT, which would, is stopped by the
`init` it finds. -/

namespace Sys2Proof.Machine

/-! ### O14: the check of R215 -/

/-- Every command but INIT checks that its channel is initialised before its k0 (R210, R215). -/
theorem exec_uninit {i : Instr} {sel : Sel} {c : Chan} {s : State} (hsel : commandSel i = some sel)
    (hc : selChan sel = some c) (hi : ∀ ch, i ≠ .init ch) (hinit : (s.ch.get c).init = false) (h : canIssue s) :
    exec i s = .next (s.takeFault .uninit s.trace) := by
  cases i with
  | init ch    => exact absurd rfl (hi ch)
  | rxc0       => cases hsel
  | txc0       => cases hsel
  | rxc1       => cases hsel
  | txc1       => cases hsel
  | reserved w => cases hsel
  | _          => cases hsel; exact runCommand_uninit h hc hinit

/-- Settles O14, from `exec_uninit`. -/
theorem uninitialisedChannelFaultsUninit : Obligations.UninitialisedChannelFaultsUninit :=
  fun _ _ _ _ => exec_uninit

/-! ### O15: the two ends of INIT -/

theorem initStep_reinit {c : Chan} {s : State} (hinit : (s.ch.get c).init = true) :
    initStep c s = raise .reinit s := if_pos hinit

theorem initStep_default {c : Chan} {s : State} (hinit : (s.ch.get c).init = false) :
    initStep c s = .ok { s with
      ch := s.ch.set c { init := true, ready := true, active := false, ovf := 0, cb := none }
      tx := s.tx.set c (Ring.create (s.cfg.capTx.get c)), rx := s.rx.set c (Ring.create (s.cfg.capRx.get c))
      hal := s.hal.set c { s.hal.get c with baud := s.cfg.defaultBaud, txie := true, rxie := true }
      cc := .idle, trace := s.trace ++ [.setBaud c s.cfg.defaultBaud, .resp .ok 0] } := by
  simp [initStep, hinit, halEnableIrqs, halSetBaud, State.respond, State.emit, State.setCc, State.setHal, State.setCh,
    State.setRx, State.setTx]

theorem exec_init_reinit {sel : Sel} {c : Chan} {s : State} (h : canIssue s) (hc : selChan sel = some c)
    (hinit : (s.ch.get c).init = true) : exec (.init sel) s = .next { s with faults := some .reinit } :=
  (runCommand_noInit h hc).trans (congrArg (settle s) (initStep_reinit hinit))

theorem exec_init_default {sel : Sel} {c : Chan} {s : State} (h : canIssue s) (hc : selChan sel = some c)
    (hinit : (s.ch.get c).init = false) :
    exec (.init sel) s = .next { s with
      ch := s.ch.set c { init := true, ready := true, active := false, ovf := 0, cb := none }
      tx := s.tx.set c (Ring.create (s.cfg.capTx.get c)), rx := s.rx.set c (Ring.create (s.cfg.capRx.get c))
      hal := s.hal.set c { s.hal.get c with baud := s.cfg.defaultBaud, txie := true, rxie := true }
      trace := s.trace ++ [.setBaud c s.cfg.defaultBaud, .resp .ok 0] } := by
  have ⟨_, hcc⟩ := h
  have hexec : exec (.init sel) s = _ := (runCommand_noInit h hc).trans (congrArg (settle s) (initStep_default hinit))
  rw [hexec, settle_ok, ← hcc]
  rfl

/-- Settles O15: the rings INIT creates are empty and have the configured capacities. -/
theorem initGivesTheDefaultState : Obligations.InitGivesTheDefaultState := by
  intro sel c s h hc
  refine ⟨fun hinit => ?_, exec_init_reinit h hc⟩
  exact ⟨_, _, exec_init_default h hc hinit, rfl, rfl, rfl, rfl, rfl, rfl, rfl, rfl⟩

/-! ### O18: the two ends of SETBAUD -/

theorem setbaudStep_quiet {rate : Rate} {c : Chan} {s : State}
    (h : (s.ch.get c).ready = true ∧ (s.ch.get c).active = false) :
    setbaudStep rate c s = .ok ((halSetBaud c rate.toNat s).respond .ok 0) := by
  obtain ⟨hready, hactive⟩ := h
  exact if_neg (by simp [hready, hactive])

theorem setbaudStep_inFlight {rate : Rate} {c : Chan} {s : State}
    (h : (s.ch.get c).ready = false ∨ (s.ch.get c).active = true) :
    setbaudStep rate c s = raise .baudInFlight s := if_pos h

/-- Settles O18, from the two ends of SETBAUD's micro-step. -/
theorem setbaudAppliesTheRateOrFaults : Obligations.SetbaudAppliesTheRateOrFaults := by
  intro sel c rate s h
  refine ⟨fun hquiet => ?_, fun hbusy => ?_⟩
  · have hexec : exec (.setbaud sel rate) s = _ := runOneStep_update (t := halSetBaud c rate.toNat s) h rfl
      fun q => setbaudStep_quiet (s := s.setCc q) hquiet
    rw [hexec, List.append_cons s.trace]
    rfl
  · exact (runCommand_issue h).trans (congrArg (settle s) (setbaudStep_inFlight hbusy))

/-! ### O16: what a channel keeps until a hardware reset -/

/-- Channel `d` is initialised, and its rings have capacities `m` and `n`. -/
def Provisioned (d : Chan) (m n : Nat) (s : State) : Prop :=
  (s.ch.get d).init = true ∧ (s.tx.get d).cap = m ∧ (s.rx.get d).cap = n

/-- A computation that completes with a result of `P`, or does not complete. -/
inductive Yields {α : Type} (P : α → Prop) : Effect α → Prop where
  | ok {a : α} (h : P a) : Yields P (.ok a)
  | stop (x : Stop) : Yields P (.error x)

theorem Yields.map {α β : Type} {P : α → Prop} {Q : β → Prop} {f : α → β} {e : Effect α} (h : Yields P e)
    (hf : ∀ a, P a → Q (f a)) : Yields Q (e.map f) := by
  cases h with
  | ok h   => exact .ok (hf _ h)
  | stop x => exact .stop x

/-- A write that keeps `f` of the record it replaces keeps `f` of every channel's record. -/
theorem perChan_apply_get_set {α β : Type} {x : PerChan α} {c : Chan} {v : α} (f : α → β) (h : f v = f (x.get c))
    (d : Chan) : f ((x.set c v).get d) = f (x.get d) := by
  rw [PerChan.get_set]
  split
  · subst d; exact h
  · rfl

namespace Provisioned
variable {d c : Chan} {m n : Nat} {s : State} (h : Provisioned d m n s)
include h

/-! The updates: `ch`, `tx` and `rx` are all that the predicate reads. -/

theorem of_eq {t : State} (hch : t.ch = s.ch) (htx : t.tx = s.tx) (hrx : t.rx = s.rx) : Provisioned d m n t := by
  rwa [Provisioned, hch, htx, hrx]

theorem setCh {x : ChanState} (hx : x.init = (s.ch.get c).init) : Provisioned d m n (s.setCh c x) := by
  obtain ⟨hinit, hcaps⟩ := h
  exact ⟨(perChan_apply_get_set ChanState.init hx d).trans hinit, hcaps⟩

theorem setTx {r : Ring} (hr : r.cap = (s.tx.get c).cap) : Provisioned d m n (s.setTx c r) := by
  obtain ⟨hinit, htx, hrx⟩ := h
  exact ⟨hinit, (perChan_apply_get_set Ring.cap hr d).trans htx, hrx⟩

theorem setRx {r : Ring} (hr : r.cap = (s.rx.get c).cap) : Provisioned d m n (s.setRx c r) := by
  obtain ⟨hinit, htx, hrx⟩ := h
  exact ⟨hinit, htx, (perChan_apply_get_set Ring.cap hr d).trans hrx⟩

theorem setReady (v : Bool) : Provisioned d m n (s.setReady c v) := h.setCh rfl

theorem setActive (v : Bool) : Provisioned d m n (s.setActive c v) := h.setCh rfl

theorem respond (st : Status) (v : BitVec 28) : Provisioned d m n (s.respond st v) := h.of_eq rfl rfl rfl

theorem advance : Provisioned d m n s.advance := h.of_eq s.advance_ch s.advance_tx s.advance_rx

theorem setLocals (L : Locals) : Provisioned d m n (s.setLocals L) :=
  h.of_eq (s.setLocals_ch L) (s.setLocals_tx L) (s.setLocals_rx L)

/-! The shared operations: a push, a pop and a flush keep the capacity. -/

theorem pushTx (b : Byte) : Provisioned d m n (pushTx c b s) := h.setTx (Ring.pushBack_cap _ b)

theorem flushRx : Provisioned d m n (flushRx c s) := h.setRx rfl

theorem popTx : Yields (fun x => Provisioned d m n x.2) (popTx c s) := by
  unfold Machine.popTx
  split
  · exact .stop _
  · exact .ok (h.setTx (Ring.popFront_cap ‹_›))

theorem popRx : Yields (fun x => Provisioned d m n x.2) (popRx c s) := by
  unfold Machine.popRx
  split
  · exact .stop _
  · exact .ok (h.setRx (Ring.popFront_cap ‹_›))

theorem halWriteTdr (b : Byte) (who : Who) : Yields (Provisioned d m n) (halWriteTdr c b who s) := by
  obtain ⟨he, -⟩ | ⟨he, -⟩ := halWriteTdr_cases c b who s <;> rw [he]
  · exact .stop _
  · exact .ok (h.of_eq rfl rfl rfl)

/-! The micro-steps of the commands. -/

/-- INIT completes on another channel only: on this one it finds `init` true (R213). -/
theorem initStep : Yields (Provisioned d m n) (initStep c s) := by
  cases hinit : (s.ch.get c).init with
  | true  => rw [initStep_reinit hinit]; exact .stop _
  | false =>
    rw [initStep_default hinit]
    have ⟨hd, _⟩ := h
    have hdc : d ≠ c := by
      rintro rfl
      exact absurd (hd.symm.trans hinit) nofun
    exact .ok (by simpa only [Provisioned, PerChan.get_set_other _ _ hdc] using h)

theorem setcbStep (cb : Option Token) : Yields (Provisioned d m n) (setcbStep cb c s) :=
  have hcb : Provisioned d m n (s.setCh c { s.ch.get c with cb := cb }) := h.setCh rfl
  .ok (hcb.respond ..)

theorem setbaudStep (rate : Rate) : Yields (Provisioned d m n) (setbaudStep rate c s) := by
  unfold Machine.setbaudStep
  split
  · exact .stop _
  · exact .ok (h.of_eq rfl rfl rfl)

theorem recvStep : Yields (Provisioned d m n) (recvStep c s) := by
  unfold Machine.recvStep
  split
  · exact h.popRx.map fun _ ht => ht.respond ..
  · exact .ok (h.respond ..)

theorem hold : Provisioned d m n (hold c s) := by
  unfold Machine.hold
  split
  · exact h.advance
  · exact h

theorem writeAndRespond (b : Byte) : Yields (Provisioned d m n) (writeAndRespond c b s) :=
  ((h.halWriteTdr b .facade).map fun _ ht => ht.setReady false).map fun _ ht => ht.respond ..

theorem sendbSteps (b : Byte) (k : Nat) (L : Locals) : Yields (Provisioned d m n) (sendbSteps b c k L s) := by
  match k with
  | 0     => exact .ok h.hold
  | 1     => exact h.writeAndRespond b
  | _ + 2 => exact .stop _

theorem startSending (j : Nat) (L : Locals) : Yields (Provisioned d m n) (startSending c j L s) := by
  match j with
  | 0 => exact .ok (h.setActive true).advance
  | 1 => exact h.popTx.map fun _ ht => (ht.setLocals _).advance
  | 2 => exact .ok h.hold
  | 3 =>
    simp only [Machine.startSending]
    split
    · exact .stop _
    · exact h.writeAndRespond _
  | _ + 4 => exact .stop _

theorem sendblkCheck (p : List Byte) (L : Locals) : Yields (Provisioned d m n) (sendblkCheck p c L s) := by
  unfold Machine.sendblkCheck
  split
  · exact .ok (h.setLocals _).advance
  · exact .ok (h.respond ..)

theorem sendblkPush (p : List Byte) (L : Locals) : Yields (Provisioned d m n) (sendblkPush p c L s) := by
  unfold Machine.sendblkPush
  split
  · exact .stop _
  · exact .ok ((h.pushTx _).setLocals _).advance

theorem sendblkSteps (p : List Byte) (k : Nat) (L : Locals) :
    Yields (Provisioned d m n) (sendblkSteps p c k L s) := by
  unfold Machine.sendblkSteps
  split
  · exact h.sendblkCheck p L
  · split
    · exact h.sendblkPush p L
    · exact h.startSending _ L

/-! The handlers. -/

theorem txcHandler : Yields (Provisioned d m n) (txcHandler c s) := by
  cases hinit : (s.ch.get c).init with
  | false => rw [Machine.txcHandler, if_pos hinit]; exact .stop _
  | true  =>
    have hclear : Provisioned d m n (clearTxcPend c s) := h.of_eq rfl rfl rfl
    by_cases hdone : (s.ch.get c).active = false ∨ (s.tx.get c).len = 0
    · rw [txcHandler_done hinit hdone]
      exact .ok (hclear.setCh rfl)
    · simp only [not_or, Bool.not_eq_false] at hdone
      obtain ⟨hactive, hlen⟩ := hdone
      rw [txcHandler_next hinit hactive hlen]
      have hfetched : Provisioned d m n (engineFetched c s) := hclear.setTx rfl
      exact hfetched.halWriteTdr _ _

theorem bufferOrCount (b : Byte) : Provisioned d m n (bufferOrCount c b s) := by
  by_cases hroom : (s.rx.get c).len < (s.rx.get c).cap
  · rw [bufferOrCount_room b hroom]
    exact h.setRx (Ring.pushBack_cap _ b)
  · rw [bufferOrCount_full b (Nat.not_lt.1 hroom)]
    exact h.setCh rfl

theorem rxcHandler : Yields (Provisioned d m n) (rxcHandler c s) := by
  cases hrdr : (s.hal.get c).rdr with
  | none   => rw [Machine.rxcHandler, halReadRdr_none c s hrdr]; exact .stop _
  | some b =>
    have hread : Provisioned d m n (s.setHal c { s.hal.get c with rdr := none, rxcPend := false }) :=
      h.of_eq rfl rfl rfl
    simp only [Machine.rxcHandler, halReadRdr_some c b s hrdr]
    split
    · exact .stop _
    · split
      · exact .ok (hread.of_eq rfl rfl rfl)
      · exact .ok (hread.bufferOrCount b)

/-! The two frames, and every instruction: recording a fault writes none of the three (R240). -/

theorem settle {t : State} {e : Effect State} (he : Yields (Provisioned d m n) e) (ht : settle s e = .next t) :
    Provisioned d m n t := by
  obtain rfl | ⟨f, tr, -, rfl⟩ := settle_cases ht
  · cases he with
    | ok h => exact h
  · exact h.of_eq rfl rfl rfl

theorem runCommand {i : Instr} {sel : Sel} {needsInit : Bool} {body : Chan → Nat → Locals → State → Effect State}
    {t : State} (ht : runCommand i sel needsInit body s = .next t)
    (hbody : ∀ {c u} k L, Provisioned d m n u → Yields (Provisioned d m n) (body c k L u)) : Provisioned d m n t := by
  obtain ⟨-, k, L, -, ⟨-, rfl⟩ | ⟨c, -, ⟨-, -, rfl⟩ | ⟨-, hsettle⟩⟩⟩ := runCommand_cases ht
  · exact h.respond ..
  · exact h.of_eq rfl rfl rfl
  · have hbusy : Provisioned d m n (s.setCc (.busy i k L)) := h.of_eq rfl rfl rfl
    exact h.settle (hbody k L hbusy) hsettle

theorem runOneStep {i : Instr} {sel : Sel} {needsInit : Bool} {k0 : Chan → State → Effect State} {t : State}
    (ht : Machine.runCommand i sel needsInit (oneStep k0) s = .next t)
    (hk0 : ∀ {c u}, Provisioned d m n u → Yields (Provisioned d m n) (k0 c u)) : Provisioned d m n t := by
  refine h.runCommand ht fun k L hu => ?_
  cases k with
  | zero   => exact hk0 hu
  | succ k => exact .stop _

theorem decodeVector {ev : BitVec 2} {t : State} (ht : exec (decodeVector ev) s = .next t) : Provisioned d m n t := by
  rw [exec_decodeVector] at ht
  obtain ⟨-, hsettle⟩ := takeEvent_cases ht
  refine h.settle ?_ hsettle
  cases vectorKind ev with
  | rxc => exact h.rxcHandler
  | txc => exact h.txcHandler

theorem exec {i : Instr} {t : State} (ht : exec i s = .next t) : Provisioned d m n t := by
  cases i with
  | init ch         => exact h.runOneStep ht initStep
  | setcb ch cb     => exact h.runOneStep ht fun hu => hu.setcbStep cb
  | setbaud ch rate => exact h.runOneStep ht fun hu => hu.setbaudStep rate
  | sendb ch b      => exact h.runCommand ht fun k L hu => hu.sendbSteps b k L
  | enqb ch b       => exact h.runOneStep ht fun hu => .ok ((hu.pushTx b).respond ..)
  | sendblk ch p    => exact h.runCommand ht fun k L hu => hu.sendblkSteps p k L
  | startbuf ch     => exact h.runCommand ht fun k L hu => hu.startSending k L
  | recv ch         => exact h.runOneStep ht recvStep
  | flushrx ch      => exact h.runOneStep ht fun hu => .ok (hu.flushRx.respond ..)
  | rxempty ch      => exact h.runOneStep ht fun hu => .ok (hu.respond ..)
  | txpend ch       => exact h.runOneStep ht fun hu => .ok (hu.respond ..)
  | ovfcnt ch       => exact h.runOneStep ht fun hu => .ok (hu.respond ..)
  | rxc0            => exact h.decodeVector (ev := 0) ht
  | txc0            => exact h.decodeVector (ev := 1) ht
  | rxc1            => exact h.decodeVector (ev := 2) ht
  | txc1            => exact h.decodeVector (ev := 3) ht
  | reserved w      =>
    simp only [Machine.exec, execReserved] at ht
    split at ht
    · cases ht
    · split at ht <;> cases ht
      exact h.respond ..

end Provisioned

/-! ### O16: the step -/

/-- A device step writes the device and the trace, a refused request the flag `refused`, and neither writes anything
else (R242, R251 to R253, R259). -/
theorem environmentStep_frame {x : Choice} {s t : State} (h : environmentStep s x = some t) :
    ∃ hal trace refused, t = { s with hal := hal, trace := trace, refused := refused } := by
  cases x with
  | call        => cases h
  | event ev    => cases h
  | reset       => cases h
  | forbidden y => cases h; exact ⟨_, _, _, rfl⟩
  | arrive c b  =>
    cases h
    unfold arriveStep
    split <;> exact ⟨_, _, _, rfl⟩
  | _           =>
    simp only [environmentStep, moveStep, shiftStep, injTxcStep, injRxStep] at h
    split at h <;> cases h
    exact ⟨_, _, _, rfl⟩

theorem Provisioned.choiceStep {d : Chan} {m n : Nat} {x : Choice} {s t : State} (hs : Provisioned d m n s)
    (hx : x ≠ .reset) (h : choiceStep x s = .next t) : Provisioned d m n t := by
  obtain rfl | ⟨-, i, u, hu, ht⟩ | ⟨-, u, hu, rfl⟩ | ⟨ev, -, -, ht⟩ | ht := choiceStep_cases hx h
  · exact hs
  · obtain ⟨_, _, _, rfl⟩ | ⟨_, _, ds, _, _, rfl⟩ := fetchCall_run_cases hu
    · exact hs.exec ht
    · exact (hs.of_eq rfl rfl rfl : Provisioned d m n { s with cmds := ds }).exec ht
  · obtain ⟨_, _, _, _, _, _, rfl⟩ := fetchCall_mismatched_cases hu
    exact hs.of_eq rfl rfl rfl
  · exact hs.exec ht
  · obtain ⟨_, _, _, rfl⟩ := environmentStep_frame ht
    exact hs.of_eq rfl rfl rfl

/-- Every step but a hardware reset leaves an initialised channel as INIT provisioned it (R213). -/
theorem Provisioned.step {d : Chan} {m n : Nat} {s t : State} (hs : Provisioned d m n s)
    (hr : ∀ rest, s.sched ≠ .reset :: rest) (h : step s = .next t) : Provisioned d m n t := by
  obtain ⟨rest, hreset, -⟩ | ⟨-, -, rfl⟩ | ⟨-, x, rest, -, hx, ht⟩ := step_cases h
  · exact absurd hreset (hr rest)
  · exact hs
  · exact (hs.of_eq rfl rfl rfl : Provisioned d m n { s with sched := rest }).choiceStep hx ht

/-- Settles O16: INIT's two ends as in O15, and `Provisioned.step`. -/
theorem initIsAllowedOncePerReset : Obligations.InitIsAllowedOncePerReset := by
  refine ⟨fun sel c s h hc => ⟨fun hinit => ?_, exec_init_reinit h hc⟩, fun s t c hinit hr ht => ?_⟩
  · have ⟨hf, _⟩ := h
    exact ⟨_, exec_init_default h hc hinit, hf, congrArg ChanState.init (PerChan.get_set_same ..)⟩
  · exact Provisioned.step ⟨hinit, rfl, rfl⟩ hr ht

end Sys2Proof.Machine
end

section
/-! PROOFS of O11, O38, O40, O41, O42, O43 and O59: the device's own steps, what R242 refuses, and the end of a run. A
device step is enabled by what its two registers hold, so a full TDR or a byte going out always leaves one enabled
(O59). -/

namespace Sys2Proof.Machine

/-! ### O11: refused requests -/

/-- A SENDBLK word delivered with a number of payload bytes other than its COUNT is no command (R75, X2 of R242). -/
theorem decode_sendblk_mismatch {d : Delivery} (hlegal : illegal d.word = false) (hop : opField d.word = 6)
    (hlen : d.payload.length ≠ (countField d.word).toNat) :
    decode (.command d) = .error .payloadMismatch := by
  simp [decode, decodeCommand, hlegal, hop, hlen]

theorem callStep_mismatched {s : State} {d : Delivery} {ds : List Delivery} {e : DecodeError} (hcc : s.cc = .idle)
    (hcmds : s.cmds = d :: ds) (hd : decode (.command d) = .error e) :
    callStep s = .next { s with cmds := ds, refused := true } := by
  simp [callStep, fetchCall, hcc, hcmds, hd, State.refuse]

/-- Settles O11: the delivery does not decode, and a forbidden choice is `State.refuse`. -/
theorem refusedRequestsOnlySetTheFlag : Obligations.RefusedRequestsOnlySetTheFlag := by
  refine ⟨fun s rest d ds hf hcc hs hcmds hlegal hop hlen => ?_, fun s rest x hf hs => ?_⟩
  · rw [step_call hf hs]
    exact callStep_mismatched (s := { s with sched := rest }) hcc hcmds (decode_sendblk_mismatch hlegal hop hlen)
  · exact step_cons hs nofun hf

/-! ### O38: the read of an empty RDR -/

/-- Settles O38: the read is the receive engine's first operation. -/
theorem readOfAnEmptyRdrFaults : Obligations.ReadOfAnEmptyRdrFaults := by
  intro i c s hi ⟨he, _⟩ hrdr
  rw [exec_rxc hi he, rxcHandler, halReadRdr_none c s hrdr]
  rfl

/-! ### O40 to O43: the device steps -/

theorem enabled_move_iff {c : Chan} {s : State} (hf : s.faults = none) :
    enabled (.move c) s = true ↔ (s.hal.get c).tdr ≠ none ∧ (s.hal.get c).tsr = none := by
  simp [enabled, environmentStep, moveStep_isSome, hf, Option.isSome_iff_ne_none]

theorem enabled_shift_iff {c : Chan} {s : State} (hf : s.faults = none) :
    enabled (.shift c) s = true ↔ (s.hal.get c).tsr ≠ none := by
  simp [enabled, environmentStep, shiftStep_isSome, hf, Option.isSome_iff_ne_none]

/-- Settles O40. -/
theorem moveLoadsTheShiftRegister : Obligations.MoveLoadsTheShiftRegister :=
  fun _ _ hf => ⟨enabled_move_iff hf, fun _ _ hs htdr htsr => step_move hf htdr htsr hs⟩

/-- SHIFT keeps a pending transmit-complete event, and raises one when no byte waits in the TDR (R252). -/
theorem step_shift_pending {c : Chan} {b : Byte} {s : State} {rest : List Choice} (hf : s.faults = none)
    (htsr : (s.hal.get c).tsr = some b) (hs : s.sched = .shift c :: rest) :
    step s = .next { s with
      hal := s.hal.set c { s.hal.get c with
        tsr := none, txcPend := (s.hal.get c).tdr.isNone || (s.hal.get c).txcPend }
      trace := s.trace ++ [.line c b], sched := rest } := by
  rw [step_cons hs nofun hf]
  simp [choiceStep, environmentStep, shiftStep, htsr, State.setHal, State.emit]

/-- Settles O41, from `step_shift_pending`. -/
theorem shiftPutsTheByteOnTheLine : Obligations.ShiftPutsTheByteOnTheLine := by
  refine fun c s hf => ⟨enabled_shift_iff hf, fun rest b hs htsr => ⟨fun htdr => step_shift hf htdr htsr hs, ?_⟩⟩
  intro htdr
  rw [step_shift_pending hf htsr hs, Option.isNone_eq_false_iff.2 (Option.isSome_iff_ne_none.2 htdr), Bool.false_or]

theorem step_arrive_full {c : Chan} {b : Byte} {s : State} {rest : List Choice} (hf : s.faults = none)
    (hrdr : (s.hal.get c).rdr ≠ none) (hs : s.sched = .arrive c b :: rest) :
    step s = .next { s with
      sched := rest, hal := s.hal.set c { s.hal.get c with lost := (s.hal.get c).lost + 1 } } := by
  obtain ⟨x, hx⟩ := Option.ne_none_iff_exists'.1 hrdr
  rw [step_cons hs nofun hf]
  simp [choiceStep, environmentStep, arriveStep, hx, State.setHal]

/-- Settles O42: the two branches of an arrival. -/
theorem arrivalFillsTheRdrOrIsLost : Obligations.ArrivalFillsTheRdrOrIsLost :=
  fun _ _ _ _ hf hs => ⟨fun hrdr => step_arrive hf hrdr hs, fun hrdr => step_arrive_full hf hrdr hs⟩

theorem enabled_injTxc_iff {c : Chan} {s : State} (hf : s.faults = none) :
    enabled (.injTxc c) s = true ↔ s.cfg.envModel = .free := by
  simp [enabled, environmentStep, injTxcStep_isSome, hf]

theorem enabled_injRx_iff {c : Chan} {b : Byte} {s : State} (hf : s.faults = none) :
    enabled (.injRx c b) s = true ↔ s.cfg.envModel = .free := by
  simp [enabled, environmentStep, injRxStep_isSome, hf]

/-- Settles O43: the device model is all an injection looks at, and the write of the TDR looks at it first. -/
theorem injectionsAreOfTheFreeModel : Obligations.InjectionsAreOfTheFreeModel := by
  refine fun c b s hf => ⟨enabled_injTxc_iff hf, enabled_injRx_iff hf, fun hfree => ⟨fun rest hs => ?_,
    fun rest hs => ?_, fun who => halWriteTdr_free c b who s hfree⟩⟩
  · rw [step_cons hs nofun hf]
    simp [choiceStep, environmentStep, injTxcStep, hfree, State.setHal]
  · rw [step_cons hs nofun hf]
    simp [choiceStep, environmentStep, injRxStep, hfree, State.setHal]

/-! ### O59: a machine with no transition -/

/-- A transmitter that neither MOVE nor SHIFT can go on with is empty (R251, R252). -/
theorem transmitter_empty {c : Chan} {s : State} (hf : s.faults = none) (hmove : enabled (.move c) s = false)
    (hshift : enabled (.shift c) s = false) : (s.hal.get c).tdr = none ∧ (s.hal.get c).tsr = none := by
  rw [← Bool.not_eq_true, enabled_shift_iff hf, not_not] at hshift
  rw [← Bool.not_eq_true, enabled_move_iff hf, not_and, not_imp_not] at hmove
  exact ⟨hmove hshift, hshift⟩

/-- With every TDR empty no command holds, so a call context without a transition is idle with nothing to issue (R58,
R211). -/
theorem idle_of_call_not_enabled {s : State} (hf : s.faults = none) (htdr : ∀ c, (s.hal.get c).tdr = none)
    (hcall : enabled .call s = false) : s.cc = .idle ∧ s.cmds = [] := by
  cases hcc : s.cc with
  | idle => exact ⟨rfl, by simpa [enabled, hf, hcc] using hcall⟩
  | busy i k L =>
    have hholding : holding s = true := by simpa [enabled, hf, hcc] using hcall
    obtain ⟨-, -, -, c, -, -, -, hfull⟩ := holding_cases hholding
    exact absurd (htdr c) hfull

/-- Settles O59: each conjunct of a good end is what one of the machine's agents being disabled says. -/
theorem theMachineIsNeverStuck : Obligations.TheMachineIsNeverStuck := by
  intro s hf hr
  suffices hgood : noTransition s = true → goodEnd s = true by
    cases hno : noTransition s with
    | false => simp [stuckEnd, hno]
    | true  => simp [stuckEnd, hgood hno]
  intro hno
  simp only [noTransition, machineChoices, List.all_cons, List.all_nil, Bool.and_true, Bool.and_eq_true,
    Bool.not_eq_true'] at hno
  obtain ⟨hcall, hrxc0, htxc0, hrxc1, htxc1, hmove0, hmove1, hshift0, hshift1⟩ := hno
  obtain ⟨htdr0, htsr0⟩ := transmitter_empty hf hmove0 hshift0
  obtain ⟨htdr1, htsr1⟩ := transmitter_empty hf hmove1 hshift1
  obtain ⟨hcc, hcmds⟩ := idle_of_call_not_enabled hf (fun c => by cases c <;> assumption) hcall
  have hhandlers : anyHandlerEnabled s = false := by
    simp only [anyHandlerEnabled, Bool.or_eq_false_iff]
    exact ⟨⟨⟨hrxc0, htxc0⟩, hrxc1⟩, htxc1⟩
  simp [goodEnd, hf, hr, hcc, hcmds, hhandlers, htdr0, htsr0, htdr1, htsr1]

end Sys2Proof.Machine
end

section
/-! PROOFS of O39, O52 and O60. One inversion says what a transition of the core can do to the fault record and to the
shift registers: complete with both as they were, or record a fault for a cause of R241's table (`exec_command_cases`,
`exec_decodeVector_cases`). O39 reads off it what a handler leaves alone, O52 the causes, and O60 that only the device
puts a byte into the TSR. -/

namespace Sys2Proof.Machine

/-! ### What a computation can do -/

/-- A computation that completes with a result of `P`, raises a fault of `Q`, or has no transition. -/
inductive Does {α : Type} (P : α → Prop) (Q : Fault → Prop) : Effect α → Prop where
  | ok {a : α} (h : P a) : Does P Q (.ok a)
  | raised {f : Fault} (tr : List Event) (h : Q f) : Does P Q (.error (.raise f tr))
  | refused (r : Refusal) : Does P Q (.error (.refuse r))

theorem Does.raise {α : Type} {P : α → Prop} {Q : Fault → Prop} {f : Fault} {s : State} (h : Q f) :
    Does P Q (raise f s : Effect α) := .raised _ h

/-- What it settles to, when that is a next state (R240). -/
theorem Does.settle {P : State → Prop} {Q : Fault → Prop} {s t : State} {e : Effect State} (h : Does P Q e)
    (ht : settle s e = .next t) : P t ∨ ∃ f tr, t = s.takeFault f tr ∧ Q f := by
  obtain rfl | ⟨f, tr, rfl, rfl⟩ := settle_cases ht
  · cases h with
    | ok h => exact .inl h
  · cases h with
    | raised _ h => exact .inr ⟨f, tr, rfl, h⟩

/-- What no operation of the core writes: the fault record, which only a raised fault changes, and the shift registers,
which are the device's own (R240, R251). -/
structure CoreFrame (s t : State) : Prop where
  faults : t.faults = s.faults
  tsr    : ∀ d, (t.hal.get d).tsr = (s.hal.get d).tsr

/-- Updates that leave the fault record and the devices alone. -/
theorem CoreFrame.of_eq {s t : State} (hf : t.faults = s.faults) (hh : t.hal = s.hal) : CoreFrame s t :=
  ⟨hf, fun d => by rw [hh]⟩

/-- A write of a device that leaves its shift register alone. -/
theorem CoreFrame.of_set {s t : State} {c : Chan} {d : Device} (hf : t.faults = s.faults) (hh : t.hal = s.hal.set c d)
    (hd : d.tsr = (s.hal.get c).tsr) : CoreFrame s t :=
  ⟨hf, fun e => by rw [hh, perChan_apply_get_set Device.tsr hd]⟩

/-! ### The shared operations -/

/-- A write of channel `c`'s TDR overruns it (R256). -/
def Overruns (c : Chan) (s : State) : Prop := s.cfg.envModel = .reference ∧ (s.hal.get c).tdr ≠ none

theorem tdr_takes_byte {c : Chan} {s : State} (h : ¬ Overruns c s) :
    (s.hal.get c).tdr = none ∨ s.cfg.envModel = .free := by
  unfold Overruns at h
  cases hmodel : s.cfg.envModel with
  | free      => exact .inr rfl
  | reference => exact .inl (by simpa [hmodel] using h)

section Operations
variable {c : Chan} {Q : Fault → Prop} {s : State}

theorem writeAndRespond_does {b : Byte} (hwrite : Overruns c s → Q .tdrOverrun) :
    Does (CoreFrame s) Q (writeAndRespond c b s) := by
  by_cases hover : Overruns c s
  · have ⟨hmodel, hfull⟩ := hover
    rw [writeAndRespond_overrun b hfull hmodel]
    exact .raise (hwrite hover)
  · rw [writeAndRespond_ok b (tdr_takes_byte hover)]
    exact .ok (.of_set rfl rfl rfl)

theorem hold_coreFrame (c : Chan) (s : State) : CoreFrame s (hold c s) := by
  unfold hold
  split
  · exact .of_eq s.advance_faults s.advance_hal
  · exact .of_eq rfl rfl

theorem popForSending_does {L : Locals} (hpop : (s.tx.get c).len = 0 → Q .popEmpty) :
    Does (CoreFrame s) Q (popForSending c L s) := by
  by_cases hlen : (s.tx.get c).len = 0
  · rw [popForSending_empty L hlen]
    exact .raise (hpop hlen)
  · rw [popForSending, popTx_some c s hlen]
    exact .ok (.of_eq (by simp) (by simp))

/-- Of the four micro-steps that start sending, the second pops and the last writes (R124, R125). -/
theorem startSending_does {j : Nat} {L : Locals} (hpop : j = 1 → (s.tx.get c).len = 0 → Q .popEmpty)
    (hwrite : j = 3 → Overruns c s → Q .tdrOverrun) : Does (CoreFrame s) Q (startSending c j L s) := by
  match j with
  | 0     => exact .ok (.of_eq (by simp) (by simp))
  | 1     => exact popForSending_does (hpop rfl)
  | 2     => exact .ok (hold_coreFrame c s)
  | 3     =>
    simp only [startSending]
    split
    · exact .refused _
    · exact writeAndRespond_does (hwrite rfl)
  | _ + 4 => exact .refused _

end Operations

/-! ### The causes of the commands' faults -/

/-- The table of R241 for the commands: at micro-step `k` a command on channel `c` raises the fault for this cause. -/
inductive CommandCause (c : Chan) (s : State) : Instr → Nat → Fault → Prop where
  | popStartbuf (ch : Sel) (hlen : (s.tx.get c).len = 0) : CommandCause c s (.startbuf ch) 1 .popEmpty
  | popSendblk (ch : Sel) (p : List Byte) (hlen : (s.tx.get c).len = 0) :
      CommandCause c s (.sendblk ch p) (p.length + 2) .popEmpty
  | uninit (i : Instr) (k : Nat) (hi : ∀ ch, i ≠ .init ch) (hinit : (s.ch.get c).init = false) :
      CommandCause c s i k .uninit
  | reinit (ch : Sel) (hinit : (s.ch.get c).init = true) : CommandCause c s (.init ch) 0 .reinit
  | baudInFlight (ch : Sel) (rate : Rate) (hbusy : (s.ch.get c).ready = false ∨ (s.ch.get c).active = true) :
      CommandCause c s (.setbaud ch rate) 0 .baudInFlight
  | overrunSendb (ch : Sel) (b : Byte) (hfull : Overruns c s) : CommandCause c s (.sendb ch b) 1 .tdrOverrun
  | overrunStartbuf (ch : Sel) (hfull : Overruns c s) : CommandCause c s (.startbuf ch) 3 .tdrOverrun
  | overrunSendblk (ch : Sel) (p : List Byte) (hfull : Overruns c s) :
      CommandCause c s (.sendblk ch p) (p.length + 4) .tdrOverrun

/-- The causes look at the parameters and at the channels, and nowhere else. -/
theorem CommandCause.of_eq {c : Chan} {s u : State} {i : Instr} {k : Nat} {f : Fault} (h : CommandCause c u i k f)
    (hcfg : s.cfg = u.cfg) (hch : s.ch = u.ch) (htx : s.tx = u.tx) (hhal : s.hal = u.hal) :
    CommandCause c s i k f := by
  have hover : Overruns c u → Overruns c s := by
    rw [Overruns, Overruns, hcfg, hhal]
    exact id
  cases h with
  | popStartbuf ch hlen        => exact .popStartbuf ch (htx ▸ hlen)
  | popSendblk ch p hlen       => exact .popSendblk ch p (htx ▸ hlen)
  | uninit _ _ hi hinit        => exact .uninit i k hi (hch ▸ hinit)
  | reinit ch hinit            => exact .reinit ch (hch ▸ hinit)
  | baudInFlight ch rate hbusy => exact .baudInFlight ch rate (hch ▸ hbusy)
  | overrunSendb ch b hfull    => exact .overrunSendb ch b (hover hfull)
  | overrunStartbuf ch hfull   => exact .overrunStartbuf ch (hover hfull)
  | overrunSendblk ch p hfull  => exact .overrunSendblk ch p (hover hfull)

section MicroSteps
variable {c : Chan} {s : State}

theorem initStep_does (ch : Sel) : Does (CoreFrame s) (CommandCause c s (.init ch) 0) (initStep c s) := by
  cases hinit : (s.ch.get c).init with
  | true  =>
    rw [initStep_reinit hinit]
    exact .raise (.reinit ch hinit)
  | false =>
    rw [initStep_default hinit]
    exact .ok (.of_set rfl rfl rfl)

theorem setbaudStep_does (ch : Sel) (rate : Rate) :
    Does (CoreFrame s) (CommandCause c s (.setbaud ch rate) 0) (setbaudStep rate c s) := by
  unfold setbaudStep
  split
  · exact .raise (.baudInFlight ch rate ‹_›)
  · exact .ok (.of_set rfl rfl rfl)

/-- RECV pops only what its check found, so it raises nothing (R126). -/
theorem recvStep_does {Q : Fault → Prop} : Does (CoreFrame s) Q (recvStep c s) := by
  by_cases hbyte : 0 < (s.rx.get c).cap ∧ 0 < (s.rx.get c).len
  · rw [recvStep_byte hbyte]
    exact .ok (.of_eq rfl rfl)
  · rw [recvStep_noData hbyte]
    exact .ok (.of_eq rfl rfl)

theorem sendbSteps_does (ch : Sel) (b : Byte) (k : Nat) (L : Locals) :
    Does (CoreFrame s) (CommandCause c s (.sendb ch b) k) (sendbSteps b c k L s) := by
  match k with
  | 0     => exact .ok (hold_coreFrame c s)
  | 1     => exact writeAndRespond_does (.overrunSendb ch b)
  | _ + 2 => exact .refused _

theorem startbufSteps_does (ch : Sel) (k : Nat) (L : Locals) :
    Does (CoreFrame s) (CommandCause c s (.startbuf ch) k) (startSending c k L s) := by
  refine startSending_does ?_ ?_
  · rintro rfl
    exact .popStartbuf ch
  · rintro rfl
    exact .overrunStartbuf ch

theorem sendblkCheck_does {Q : Fault → Prop} (p : List Byte) (L : Locals) :
    Does (CoreFrame s) Q (sendblkCheck p c L s) := by
  unfold sendblkCheck
  split
  · exact .ok (.of_eq (by simp) (by simp))
  · exact .ok (.of_eq rfl rfl)

theorem sendblkPush_does {Q : Fault → Prop} (p : List Byte) (L : Locals) :
    Does (CoreFrame s) Q (sendblkPush p c L s) := by
  unfold sendblkPush
  split
  · exact .refused _
  · exact .ok (.of_eq (by simp [pushTx]) (by simp [pushTx]))

theorem sendblkSteps_does (ch : Sel) (p : List Byte) (k : Nat) (L : Locals) :
    Does (CoreFrame s) (CommandCause c s (.sendblk ch p) k) (sendblkSteps p c k L s) := by
  unfold sendblkSteps
  split
  · exact sendblkCheck_does p L
  · split
    · exact sendblkPush_does p L
    · obtain ⟨j, rfl⟩ : ∃ j, k = p.length + 1 + j := Nat.exists_eq_add_of_le (by omega)
      rw [Nat.add_sub_cancel_left]
      refine startSending_does ?_ ?_
      · rintro rfl
        exact .popSendblk ch p
      · rintro rfl
        exact .overrunSendblk ch p

end MicroSteps

/-! ### The command frame -/

/-- A command's transition keeps the frame, or records a fault for a cause of R241's table at its micro-step. -/
def CommandStep (i : Instr) (s t : State) : Prop :=
  CoreFrame s t ∨ ∃ f tr k L c, t = s.takeFault f tr ∧ progressOf i s.cc = some (k, L) ∧ commandChan i = some c ∧
    CommandCause c s i k f

theorem runCommand_commandStep {i : Instr} {sel : Sel} {needsInit : Bool} {s t : State}
    {body : Chan → Nat → Locals → State → Effect State} (h : runCommand i sel needsInit body s = .next t)
    (hsel : commandSel i = some sel) (hneeds : needsInit = true → ∀ ch, i ≠ .init ch)
    (hbody : ∀ c k L u, Does (CoreFrame u) (CommandCause c u i k) (body c k L u)) : CommandStep i s t := by
  obtain ⟨-, k, L, hp, ⟨-, rfl⟩ | ⟨c, hc, hrun⟩⟩ := runCommand_cases h
  · exact .inl (.of_eq rfl rfl)
  · have hchan : commandChan i = some c := by rw [commandChan, hsel, Option.bind_some, hc]
    obtain ⟨hn, hinit, rfl⟩ | ⟨-, hsettle⟩ := hrun
    · exact .inr ⟨_, _, k, L, c, rfl, hp, hchan, .uninit i k (hneeds hn) hinit⟩
    · obtain ⟨hfaults, htsr⟩ | ⟨f, tr, rfl, hcause⟩ := (hbody c k L _).settle hsettle
      · exact .inl ⟨hfaults, htsr⟩
      · exact .inr ⟨f, tr, k, L, c, rfl, hp, hchan, hcause.of_eq rfl rfl rfl rfl⟩

/-- A command of one micro-step. -/
theorem runOneStep_commandStep {i : Instr} {sel : Sel} {needsInit : Bool} {s t : State}
    {k0 : Chan → State → Effect State} (h : runCommand i sel needsInit (oneStep k0) s = .next t)
    (hsel : commandSel i = some sel) (hneeds : needsInit = true → ∀ ch, i ≠ .init ch)
    (hk0 : ∀ c u, Does (CoreFrame u) (CommandCause c u i 0) (k0 c u)) : CommandStep i s t := by
  refine runCommand_commandStep h hsel hneeds fun c k L u => ?_
  cases k with
  | zero   => exact hk0 c u
  | succ k => exact .refused _

theorem exec_command_cases {i : Instr} {s t : State} (hcmd : ∀ ev, i ≠ decodeVector ev) (h : exec i s = .next t) :
    CommandStep i s t := by
  cases i with
  | init ch         => exact runOneStep_commandStep h rfl (fun hn => nomatch hn) fun _ _ => initStep_does ch
  | setcb ch cb     => exact runOneStep_commandStep h rfl (fun _ => nofun) fun _ _ => .ok (.of_eq rfl rfl)
  | setbaud ch rate => exact runOneStep_commandStep h rfl (fun _ => nofun) fun _ _ => setbaudStep_does ch rate
  | sendb ch b      => exact runCommand_commandStep h rfl (fun _ => nofun) fun _ k L _ => sendbSteps_does ch b k L
  | enqb ch b       => exact runOneStep_commandStep h rfl (fun _ => nofun) fun _ _ => .ok (.of_eq rfl rfl)
  | sendblk ch p    => exact runCommand_commandStep h rfl (fun _ => nofun) fun _ k L _ => sendblkSteps_does ch p k L
  | startbuf ch     => exact runCommand_commandStep h rfl (fun _ => nofun) fun _ k L _ => startbufSteps_does ch k L
  | recv ch         => exact runOneStep_commandStep h rfl (fun _ => nofun) fun _ _ => recvStep_does
  | flushrx ch      => exact runOneStep_commandStep h rfl (fun _ => nofun) fun _ _ => .ok (.of_eq rfl rfl)
  | rxempty ch      => exact runOneStep_commandStep h rfl (fun _ => nofun) fun _ _ => .ok (.of_eq rfl rfl)
  | txpend ch       => exact runOneStep_commandStep h rfl (fun _ => nofun) fun _ _ => .ok (.of_eq rfl rfl)
  | ovfcnt ch       => exact runOneStep_commandStep h rfl (fun _ => nofun) fun _ _ => .ok (.of_eq rfl rfl)
  | rxc0            => exact absurd rfl (hcmd 0)
  | txc0            => exact absurd rfl (hcmd 1)
  | rxc1            => exact absurd rfl (hcmd 2)
  | txc1            => exact absurd rfl (hcmd 3)
  | reserved w      =>
    simp only [exec, execReserved] at h
    split at h
    · cases h
    · split at h <;> cases h
      exact .inl (.of_eq rfl rfl)

/-! ### The handlers -/

/-- What a handler leaves alone beside `CoreFrame`: the call context's progress, the source enables, the inputs, the
parameters and the refused flag (R237, R238). -/
structure HandlerFrame (s t : State) : Prop extends CoreFrame s t where
  cc      : t.cc = s.cc
  cmds    : t.cmds = s.cmds
  sched   : t.sched = s.sched
  cfg     : t.cfg = s.cfg
  refused : t.refused = s.refused
  enables : ∀ d, (t.hal.get d).txie = (s.hal.get d).txie ∧ (t.hal.get d).rxie = (s.hal.get d).rxie

/-- A handler writes its channel's flags, rings and device, the trace and the counter of free values, and of the
device neither the TSR nor an enable. -/
theorem HandlerFrame.of_write {s : State} {c : Chan} {ch : PerChan ChanState} {tx rx : PerChan Ring} {d : Device}
    {trace : List Event} {draws : Nat} (htsr : d.tsr = (s.hal.get c).tsr) (htxie : d.txie = (s.hal.get c).txie)
    (hrxie : d.rxie = (s.hal.get c).rxie) :
    HandlerFrame s { s with
      ch := ch, tx := tx, rx := rx, hal := s.hal.set c d, trace := trace, draws := draws } :=
  ⟨.of_set rfl rfl htsr, rfl, rfl, rfl, rfl, rfl, fun e =>
    ⟨perChan_apply_get_set Device.txie htxie e, perChan_apply_get_set Device.rxie hrxie e⟩⟩

/-- The table of R241 for the handlers: that of a source of channel `c` raises the fault for this cause. -/
inductive HandlerCause (c : Chan) (s : State) : Kind → Fault → Prop where
  | uninit (kind : Kind) (hinit : (s.ch.get c).init = false) : HandlerCause c s kind .uninit
  | rdrEmpty (hrdr : (s.hal.get c).rdr = none) : HandlerCause c s .rxc .rdrEmpty
  | tdrOverrun (hactive : (s.ch.get c).active = true) (hlen : (s.tx.get c).len ≠ 0) (hfull : Overruns c s) :
      HandlerCause c s .txc .tdrOverrun

theorem txcHandler_does (c : Chan) (s : State) :
    Does (HandlerFrame s) (HandlerCause c s .txc) (txcHandler c s) := by
  cases hinit : (s.ch.get c).init with
  | false =>
    rw [txcHandler, if_pos hinit]
    exact .raise (.uninit _ hinit)
  | true =>
    by_cases hdone : (s.ch.get c).active = false ∨ (s.tx.get c).len = 0
    · rw [txcHandler_done hinit hdone]
      exact .ok (.of_write (c := c) rfl rfl rfl)
    · simp only [not_or, Bool.not_eq_false] at hdone
      obtain ⟨hactive, hlen⟩ := hdone
      by_cases hover : Overruns c s
      · have ⟨hmodel, htdr⟩ := hover
        obtain ⟨x, hx⟩ := Option.ne_none_iff_exists'.1 htdr
        rw [txcHandler_next hinit hactive hlen,
          halWriteTdr_overrun c _ x _ (engineFetched c s) hmodel (by rwa [engineFetched_hal])]
        exact .raise (.tdrOverrun hactive hlen hover)
      · rw [txcHandler_next_ok hinit hactive hlen (tdr_takes_byte hover)]
        exact .ok (.of_write rfl rfl rfl)

theorem rxcHandler_does (c : Chan) (s : State) :
    Does (HandlerFrame s) (HandlerCause c s .rxc) (rxcHandler c s) := by
  cases hrdr : (s.hal.get c).rdr with
  | none =>
    rw [rxcHandler, halReadRdr_none c s hrdr]
    exact .raised _ (.rdrEmpty hrdr)
  | some b =>
    cases hinit : (s.ch.get c).init with
    | false =>
      simp only [rxcHandler, halReadRdr_some c b s hrdr, State.setHal_ch, hinit, if_true]
      exact .raise (.uninit _ hinit)
    | true =>
      cases hcb : (s.ch.get c).cb with
      | some tok =>
        rw [rxcHandler_callback hinit hrdr hcb]
        exact .ok (.of_write rfl rfl rfl)
      | none =>
        obtain hroom | hfull := Nat.lt_or_ge (s.rx.get c).len (s.rx.get c).cap
        · rw [rxcHandler_room hinit hrdr hcb hroom]
          exact .ok (.of_write rfl rfl rfl)
        · rw [rxcHandler_full hinit hrdr hcb hfull]
          exact .ok (.of_write rfl rfl rfl)

/-- An event vector is taken only while its handler is enabled, which then keeps its frame or records a fault for a
cause of R241's table. -/
theorem exec_decodeVector_cases {ev : BitVec 2} {s t : State} (h : exec (decodeVector ev) s = .next t) :
    vectorEnabled ev s = true ∧ (HandlerFrame s t ∨
      ∃ f tr, t = s.takeFault f tr ∧ HandlerCause (vectorChan ev) s (vectorKind ev) f) := by
  rw [exec_decodeVector] at h
  obtain ⟨he, hsettle⟩ := takeEvent_cases h
  refine ⟨he, ?_⟩
  cases hkind : vectorKind ev <;> rw [hkind] at hsettle
  · exact (rxcHandler_does _ s).settle hsettle
  · exact (txcHandler_does _ s).settle hsettle

/-- Settles O39: a fault that is recorded writes none of it either. -/
theorem handlersLeaveTheCallContextAlone : Obligations.HandlersLeaveTheCallContextAlone := by
  intro i s t hi h
  obtain ⟨ev, rfl⟩ : ∃ ev, i = decodeVector ev := by
    simp only [List.mem_cons, List.not_mem_nil, or_false] at hi
    obtain rfl | rfl | rfl | rfl := hi
    exacts [⟨0, rfl⟩, ⟨1, rfl⟩, ⟨2, rfl⟩, ⟨3, rfl⟩]
  obtain ⟨-, ⟨⟨-, -⟩, hcc, hcmds, hsched, hcfg, hrefused, henables⟩ | ⟨f, tr, rfl, -⟩⟩ := exec_decodeVector_cases h
  · exact ⟨hcc, hcmds, hsched, hcfg, hrefused, henables⟩
  · exact ⟨rfl, rfl, rfl, rfl, rfl, fun _ => ⟨rfl, rfl⟩⟩

/-! ### O52: the step that records a fault -/

/-- The call context runs micro-step `k` of `i`: of the command in progress, or the first of the host's next command
(R22, R210). -/
def RunsMicroStep (s : State) (i : Instr) (k : Nat) : Prop :=
  (∃ L, s.cc = .busy i k L) ∨ (k = 0 ∧ s.cc = .idle ∧ ∃ d ds, s.cmds = d :: ds ∧ decode (.command d) = .ok i)

/-- Where the fetch finds an instruction, it stands at the micro-step the command frame runs. -/
theorem fetchCall_runsMicroStep {s u : State} {i : Instr} {k : Nat} {L : Locals} (h : fetchCall s = .run i u)
    (hp : progressOf i u.cc = some (k, L)) : RunsMicroStep s i k := by
  obtain ⟨j, M, hcc, rfl⟩ | ⟨hcc, d, ds, hcmds, hd, rfl⟩ := fetchCall_run_cases h
  · rw [hcc, progressOf_busy] at hp
    cases hp
    exact .inl ⟨L, hcc⟩
  · rw [show ({ s with cmds := ds } : State).cc = .idle from hcc, progressOf_idle] at hp
    cases hp
    exact .inr ⟨rfl, hcc, d, ds, hcmds, hd⟩

/-- A choice that records a fault is the call context's, at a micro-step that raises it, or an enabled handler's. -/
theorem choiceStep_fault_cases {x : Choice} {s t : State} {f : Fault} (hinv : MachineInv s) (hf : s.faults = none)
    (hx : x ≠ .reset) (h : choiceStep x s = .next t) (ht : t.faults = some f) :
    (x = .call ∧ ∃ i k c, RunsMicroStep s i k ∧ commandChan i = some c ∧ CommandCause c s i k f) ∨
    ∃ ev, x = .event ev ∧ vectorEnabled ev s = true ∧ HandlerCause (vectorChan ev) s (vectorKind ev) f := by
  have hnone : t.faults ≠ s.faults := by
    rw [ht, hf]
    nofun
  obtain hsame | ⟨rfl, i, u, hu, hexec⟩ | ⟨-, u, hu, rfl⟩ | ⟨ev, rfl, -, hexec⟩ | henv := choiceStep_cases hx h
  · exact absurd (congrArg State.faults hsame) hnone
  · obtain ⟨-, hufaults, -, hcmd, -⟩ := hinv.fetchCall_run hu
    obtain ⟨hfaults, -⟩ | ⟨g, tr, k, L, c, rfl, hp, hc, hcause⟩ := exec_command_cases hcmd hexec
    · exact absurd (hfaults.trans hufaults) hnone
    · cases ht
      refine .inl ⟨rfl, i, k, c, fetchCall_runsMicroStep hu hp, hc, ?_⟩
      obtain ⟨_, _, _, rfl⟩ | ⟨_, _, _, _, _, rfl⟩ := fetchCall_run_cases hu
      · exact hcause
      · exact hcause.of_eq rfl rfl rfl rfl
  · obtain ⟨_, _, _, _, _, _, rfl⟩ := fetchCall_mismatched_cases hu
    exact absurd rfl hnone
  · obtain ⟨he, ⟨⟨hfaults, -⟩, -⟩ | ⟨g, tr, rfl, hcause⟩⟩ := exec_decodeVector_cases hexec
    · exact absurd hfaults hnone
    · cases ht
      exact .inr ⟨ev, rfl, he, hcause⟩
  · obtain ⟨_, _, _, rfl⟩ := environmentStep_frame henv
    exact absurd rfl hnone

/-- In a state of the invariant an enabled handler raises nothing but TDR_OVERRUN: its sources are enabled only on an
initialised channel, and a receive event is pending only over a full RDR (R232, R257). -/
theorem MachineInv.handlerCause {s : State} (h : MachineInv s) (hf : s.faults = none) {ev : BitVec 2} {f : Fault}
    (he : vectorEnabled ev s = true) (hcause : HandlerCause (vectorChan ev) s (vectorKind ev) f) :
    f = .tdrOverrun ∧ vectorKind ev = .txc ∧ (s.ch.get (vectorChan ev)).active = true ∧
      (s.tx.get (vectorChan ev)).len ≠ 0 ∧ Overruns (vectorChan ev) s := by
  have hdata := h.invAt.chan (vectorChan ev)
  obtain ⟨hpend, henable, -⟩ := (handlerEnabled_iff hf).1 he
  generalize vectorKind ev = kind at hpend henable hcause
  cases hcause with
  | uninit _ hinit =>
    have hdisabled : (s.hal.get (vectorChan ev)).enable kind = false := by
      cases kind with
      | rxc => exact hdata.rxie.trans hinit
      | txc => exact hdata.txie.trans hinit
    exact absurd (henable.symm.trans hdisabled) nofun
  | rdrEmpty hrdr => exact absurd (hdata.rdr hpend) (by simp [hrdr])
  | tdrOverrun hactive hlen hfull => exact ⟨rfl, rfl, hactive, hlen, hfull⟩

/-- Past its issue a command is in progress. -/
theorem RunsMicroStep.busy {s : State} {i : Instr} {k : Nat} (h : RunsMicroStep s i (k + 1)) :
    ∃ L, s.cc = .busy i (k + 1) L := h.resolve_right fun ⟨hk, _⟩ => nomatch hk

/-- A command that is not in progress is at its issue. -/
theorem RunsMicroStep.issue {s : State} {i : Instr} {k : Nat} (h : RunsMicroStep s i k)
    (hno : ∀ L, s.cc ≠ .busy i k L) : s.cc = .idle ∧ ∃ d ds, s.cmds = d :: ds ∧ decode (.command d) = .ok i := by
  obtain ⟨L, hcc⟩ | ⟨-, hissue⟩ := h
  · exact absurd hcc (hno L)
  · exact hissue

/-- A command in progress is at a micro-step it has (R22). -/
theorem MachineInv.legalMicroStep {s : State} (h : MachineInv s) {i : Instr} {k : Nat} {L : Locals}
    (hcc : s.cc = .busy i k L) : LegalMicroStep i k L := by
  have hl := h.legalAt
  rw [hcc] at hl
  obtain ⟨-, -, hlegal⟩ := hl
  exact hlegal

/-- Settles O52: the call context's causes are those of `CommandCause`, and a handler's is the engine's overrun. -/
theorem faultsAreRecordedOnlyForTheirCause : Obligations.FaultsAreRecordedOnlyForTheirCause := by
  intro s t f hinv hf h ht
  obtain ⟨rest, -, rfl⟩ | ⟨-, -, rfl⟩ | ⟨-, x, rest, hs, hx, hchoice⟩ := step_cases h
  · cases ht
  · cases hf.symm.trans ht
  · have hrest : MachineInv { s with sched := rest } := hinv
    obtain ⟨rfl, i, k, c, hruns, hc, hcause⟩ | ⟨ev, rfl, he, hcause⟩ := choiceStep_fault_cases hrest hf hx hchoice ht
    · replace hruns : RunsMicroStep s i k := hruns
      cases hcause with
      | popStartbuf ch hlen =>
        obtain ⟨L, hcc⟩ := hruns.busy
        exact ⟨rest, _, _, L, c, hs, hcc, hc, hlen, .inl ⟨ch, rfl, rfl⟩⟩
      | popSendblk ch p hlen =>
        obtain ⟨L, hcc⟩ := hruns.busy
        exact ⟨rest, _, _, L, c, hs, hcc, hc, hlen, .inr ⟨ch, p, rfl, rfl⟩⟩
      | uninit _ _ hi hinit =>
        have hissue : ∀ L, s.cc ≠ .busy i k L := fun L hcc => by
          obtain ⟨_, -, -, -, -, hinit'⟩ := hinv.atMicroStep hf hcc hc
          cases hinit'.symm.trans hinit
        obtain ⟨hcc, d, ds, hcmds, hd⟩ := hruns.issue hissue
        exact ⟨rest, d, ds, i, c, hs, hcc, hcmds, hd, hc, hinit, hi⟩
      | reinit ch hinit =>
        obtain ⟨hcc, d, ds, hcmds, hd⟩ := hruns.issue fun L => hinv.legalMicroStep
        exact ⟨rest, d, ds, ch, c, hs, hcc, hcmds, hd, hc, hinit⟩
      | baudInFlight ch rate hbusy =>
        obtain ⟨hcc, d, ds, hcmds, hd⟩ := hruns.issue fun L => hinv.legalMicroStep
        exact ⟨rest, d, ds, ch, rate, c, hs, hcc, hcmds, hd, hc, hbusy⟩
      | overrunSendb ch b hfull =>
        obtain ⟨L, hcc⟩ := hruns.busy
        obtain ⟨hmodel, htdr⟩ := hfull
        exact ⟨hmodel, c, htdr, .inl ⟨rest, _, _, L, hs, hcc, hc, .inl ⟨ch, b, rfl, rfl⟩⟩⟩
      | overrunStartbuf ch hfull =>
        obtain ⟨L, hcc⟩ := hruns.busy
        obtain ⟨hmodel, htdr⟩ := hfull
        exact ⟨hmodel, c, htdr, .inl ⟨rest, _, _, L, hs, hcc, hc, .inr (.inl ⟨ch, rfl, rfl⟩)⟩⟩
      | overrunSendblk ch p hfull =>
        obtain ⟨L, hcc⟩ := hruns.busy
        obtain ⟨hmodel, htdr⟩ := hfull
        exact ⟨hmodel, c, htdr, .inl ⟨rest, _, _, L, hs, hcc, hc, .inr (.inr ⟨ch, p, rfl, rfl⟩)⟩⟩
    · obtain ⟨rfl, hkind, hactive, hlen, hmodel, htdr⟩ := hrest.handlerCause hf he hcause
      rw [vectorEnabled, hkind] at he
      rw [eq_txcVector hkind] at hs
      exact ⟨hmodel, _, htdr, .inr ⟨rest, hs, he, hactive, hlen⟩⟩

/-! ### O60: a full TDR is emptied -/

/-- No instruction writes a shift register, and recording a fault writes none either (R240, R251). -/
theorem exec_tsr {i : Instr} {s t : State} (h : exec i s = .next t) (c : Chan) :
    (t.hal.get c).tsr = (s.hal.get c).tsr := by
  by_cases hvector : ∃ ev, i = decodeVector ev
  · obtain ⟨ev, rfl⟩ := hvector
    obtain ⟨-, ⟨⟨-, htsr⟩, -⟩ | ⟨f, tr, rfl, -⟩⟩ := exec_decodeVector_cases h
    · exact htsr c
    · rfl
  · obtain ⟨-, htsr⟩ | ⟨f, tr, k, L, d, rfl, -⟩ := exec_command_cases (not_exists.1 hvector) h
    · exact htsr c
    · rfl

/-- A write of a device that leaves its shift register alone. -/
theorem setHal_tsr {s : State} {d : Chan} {x : Device} (hx : x.tsr = (s.hal.get d).tsr) (c : Chan) :
    ((s.setHal d x).hal.get c).tsr = (s.hal.get c).tsr := perChan_apply_get_set Device.tsr hx c

/-- A device step other than MOVE leaves a shift register as it was, or empty (R251 to R253, R259). -/
theorem environmentStep_tsr {x : Choice} {s t : State} {c : Chan} (h : environmentStep s x = some t)
    (hx : x ≠ .move c) : (t.hal.get c).tsr = (s.hal.get c).tsr ∨ (t.hal.get c).tsr = none := by
  cases x with
  | move d =>
    have hdc : c ≠ d := fun hdc => hx (hdc ▸ rfl)
    simp only [environmentStep, moveStep] at h
    split at h <;> cases h
    exact .inl (congrArg Device.tsr (PerChan.get_set_other _ _ hdc))
  | shift d =>
    simp only [environmentStep, shiftStep] at h
    split at h <;> cases h
    by_cases hdc : c = d
    · subst d
      exact .inr (congrArg Device.tsr (PerChan.get_set_same ..))
    · exact .inl (congrArg Device.tsr (PerChan.get_set_other _ _ hdc))
  | arrive d b =>
    cases h
    unfold arriveStep
    split <;> exact .inl (setHal_tsr (by rfl) c)
  | injTxc d =>
    simp only [environmentStep, injTxcStep] at h
    split at h <;> cases h
    exact .inl (setHal_tsr (by rfl) c)
  | injRx d b =>
    simp only [environmentStep, injRxStep] at h
    split at h <;> cases h
    exact .inl (setHal_tsr (by rfl) c)
  | forbidden y => cases h; exact .inl rfl
  | call        => cases h
  | event ev    => cases h
  | reset       => cases h

/-- Only MOVE fills an empty shift register (R251). -/
theorem take_keeps_tsr_empty {x : Choice} {s t : State} {c : Chan} (h : take x s = .next t) (hx : x ≠ .move c)
    (htsr : (s.hal.get c).tsr = none) : (t.hal.get c).tsr = none := by
  obtain ⟨rest, -, rfl⟩ | ⟨-, hs, -⟩ | ⟨-, y, rest, hs, hy, hchoice⟩ := step_cases h
  · obtain ⟨baud, hbaud⟩ := State.hardReset_hal { s with sched := rest } c
    exact congrArg Device.tsr hbaud
  · cases hs
  · cases hs
    obtain rfl | ⟨-, i, u, hu, hexec⟩ | ⟨-, u, hu, rfl⟩ | ⟨ev, -, -, hexec⟩ | henv := choiceStep_cases hy hchoice
    · exact htsr
    · rw [exec_tsr hexec]
      obtain ⟨_, _, _, rfl⟩ | ⟨_, _, _, _, _, rfl⟩ := fetchCall_run_cases hu <;> exact htsr
    · obtain ⟨_, _, _, _, _, _, rfl⟩ := fetchCall_mismatched_cases hu
      exact htsr
    · exact (exec_tsr hexec c).trans htsr
    · exact (environmentStep_tsr henv hx).elim (·.trans htsr) id

/-- MOVE, where it is enabled, empties the TDR (R251). -/
theorem take_move_tdr {s t : State} {c : Chan} (h : take (.move c) s = .next t)
    (he : enabled (.move c) s = true) (hf : s.faults = none) : (t.hal.get c).tdr = none := by
  obtain ⟨htdr, htsr⟩ := (enabled_move_iff hf).1 he
  obtain ⟨b, hb⟩ := Option.ne_none_iff_exists'.1 htdr
  rw [take, step_move (s := { s with sched := .move c :: s.sched }) hf hb htsr rfl] at h
  cases h
  exact congrArg Device.tdr (PerChan.get_set_same ..)

/-- SHIFT, where it is enabled, empties the TSR (R252). -/
theorem take_shift_tsr {s t : State} {c : Chan} (h : take (.shift c) s = .next t)
    (he : enabled (.shift c) s = true) (hf : s.faults = none) : (t.hal.get c).tsr = none := by
  obtain ⟨b, hb⟩ := Option.ne_none_iff_exists'.1 ((enabled_shift_iff hf).1 he)
  rw [take, step_shift_pending (s := { s with sched := .shift c :: s.sched }) hf hb rfl] at h
  cases h
  exact congrArg Device.tsr (PerChan.get_set_same ..)

section FairRun
variable {at_ : Nat → State} {pick : Nat → Choice} (hrun : Run at_ pick) (hfair : WeaklyFair at_ pick)
  (hf : ∀ n, (at_ n).faults = none) {c : Chan} {n : Nat}
include hrun hfair hf

/-- A byte going out is put on the line: SHIFT is owed while the TSR holds it (R252, R260). -/
theorem exists_tsr_empty : ∃ m, n ≤ m ∧ ((at_ m).hal.get c).tsr = none := by
  by_contra! hfull
  have howed : ∀ m, n ≤ m → enabled (.shift c) (at_ m) = true := fun m hm => (enabled_shift_iff (hf m)).2 (hfull m hm)
  obtain ⟨m, hm, hpick⟩ := hfair (.shift c) n howed
  have htake := hrun m
  rw [hpick] at htake
  exact hfull (m + 1) (by omega) (take_shift_tsr htake (howed m hm) (hf m))

/-- With the TSR empty a full TDR is moved: while it stays full, nothing fills the TSR, and MOVE is owed (R251,
R260). -/
theorem exists_tdr_empty_of_tsr_empty (htsr : ((at_ n).hal.get c).tsr = none) :
    ∃ m, n ≤ m ∧ ((at_ m).hal.get c).tdr = none := by
  by_contra! hfull
  have hstay : ∀ m, n ≤ m → enabled (.move c) (at_ m) = true := by
    intro m hm
    refine (enabled_move_iff (hf m)).2 ⟨hfull m hm, ?_⟩
    induction m, hm using Nat.le_induction with
    | base => exact htsr
    | succ m hm ih =>
      have htake := hrun m
      refine take_keeps_tsr_empty htake (fun hpick => ?_) ih
      rw [hpick] at htake
      exact hfull (m + 1) (by omega) (take_move_tdr htake ((enabled_move_iff (hf m)).2 ⟨hfull m hm, ih⟩) (hf m))
  obtain ⟨m, hm, hpick⟩ := hfair (.move c) n hstay
  have htake := hrun m
  rw [hpick] at htake
  exact hfull (m + 1) (by omega) (take_move_tdr htake (hstay m hm) (hf m))

end FairRun

/-- Settles O60: the TSR is emptied first, and then the TDR. -/
theorem aFairRunEmptiesTheTdr : Obligations.AFairRunEmptiesTheTdr := by
  intro at_ pick hrun hfair hf c n
  obtain ⟨m, hm, htsr⟩ := exists_tsr_empty hrun hfair hf (c := c) (n := n)
  obtain ⟨l, hl, htdr⟩ := exists_tdr_empty_of_tsr_empty hrun hfair hf htsr
  exact ⟨l, hm.trans hl, htdr⟩

end Sys2Proof.Machine
end

section
/-! PROOFS of O9 and O50. O50's invariant reads of a channel its transmitter: `init`, `ready`, the TDR, the TSR and the
transmit-complete event with its enable. One inversion says what an instruction can do to the transmitter of its own
channel (`TransmitterStep`): INIT, the facade's write, and the two ends of the transmit engine. An agent of the other
channel spares it (`Spares`, from O55), and the device's steps are taken one by one. -/

namespace Sys2Proof.Machine

/-- Settles O9, from the values of a hardware reset. -/
theorem hardwareResetAtAnyState : Obligations.HardwareResetAtAnyState := by
  intro s rest hs
  exact ⟨_, step_reset hs, fun c => congrArg ChanState.init (State.hardReset_ch _ c), State.hardReset_hal _,
    rfl, rfl, rfl, rfl⟩

/-! ### The transmitter of a channel -/

/-- The transmitter of a channel: the flags that speak of it, its two registers, and its event. -/
structure Transmitter where
  init    : Bool
  ready   : Bool
  tdr     : Option Byte
  tsr     : Option Byte
  txcPend : Bool
  txie    : Bool

/-- Channel `c`'s transmitter. -/
def transmitter (c : Chan) (s : State) : Transmitter :=
  { init := (s.ch.get c).init, ready := (s.ch.get c).ready, tdr := (s.hal.get c).tdr, tsr := (s.hal.get c).tsr
    txcPend := (s.hal.get c).txcPend, txie := (s.hal.get c).txie }

/-- O50's invariant of one transmitter: it is quiet while its channel is uninitialised or `ready`; unless something was
refused, its registers are empty while its event is pending; and its source is enabled by INIT. -/
structure Transmitter.Eager (refused : Bool) (v : Transmitter) : Prop where
  quiet   : v.init = false ∨ v.ready = true → v.tdr = none ∧ v.tsr = none ∧ v.txcPend = false
  drained : refused = false → v.txcPend = true → v.tdr = none ∧ v.tsr = none
  source  : v.txie = v.init

theorem eagerInv_iff {s : State} : EagerInv s ↔ ∀ c, (transmitter c s).Eager s.refused := by
  refine forall_congr' fun c => ?_
  simp only [quiet, Bool.and_eq_true, Option.isNone_iff_eq_none, Bool.not_eq_true']
  constructor
  · rintro ⟨hready, hdrained, huninit, hsource⟩
    refine ⟨?_, hdrained, hsource⟩
    rintro (hinit | hr)
    · exact huninit hinit
    · cases hinit : (s.ch.get c).init with
      | false => exact huninit hinit
      | true  =>
        obtain ⟨⟨⟨-, htdr⟩, htsr⟩, hpend⟩ := hready hinit hr
        exact ⟨htdr, htsr, hpend⟩
  · rintro ⟨hquiet, hdrained, hsource⟩
    refine ⟨fun _ hr => ?_, hdrained, fun hinit => hquiet (.inl hinit), hsource⟩
    obtain ⟨htdr, htsr, hpend⟩ := hquiet (.inr hr)
    exact ⟨⟨⟨hr, htdr⟩, htsr⟩, hpend⟩

/-! ### The other channel's agents -/

/-- Channel `c`'s transmitter is as it was, and what was refused stays refused. -/
def Spares (c : Chan) (s t : State) : Prop :=
  transmitter c t = transmitter c s ∧ (s.refused = true → t.refused = true)

theorem Transmitter.Eager.mono {r r' : Bool} {v : Transmitter} (h : v.Eager r) (hr : r = true → r' = true) :
    v.Eager r' := by
  obtain ⟨hquiet, hdrained, hsource⟩ := h
  refine ⟨hquiet, fun hr' => hdrained ?_, hsource⟩
  cases r with
  | false => rfl
  | true  => exact absurd ((hr rfl).symm.trans hr') nofun

theorem Spares.eager {c : Chan} {s t : State} (h : Spares c s t) (hs : (transmitter c s).Eager s.refused) :
    (transmitter c t).Eager t.refused := by
  obtain ⟨hv, hr⟩ := h
  rw [hv]
  exact hs.mono hr

/-- No update of another channel's record writes the transmitter, and none takes a refusal back. -/
theorem spares_channelRelation (s₀ : State) {c d : Chan} (hcd : c ≠ d) :
    ChannelRelation d fun s s' => s' = s ∧ Spares c s₀ s where
  agree := by rintro s _ ⟨rfl, -⟩; exact ⟨rfl, rfl, rfl, rfl, rfl, rfl, rfl, rfl, rfl⟩
  setCh := by
    rintro s _ x ⟨rfl, hv, hr⟩
    refine ⟨rfl, ?_, hr⟩
    rw [← hv, transmitter, transmitter, State.setCh_ch, State.setCh_hal, PerChan.get_set_other _ _ hcd]
  setTx := by rintro s _ r ⟨rfl, h⟩; exact ⟨rfl, h⟩
  setRx := by rintro s _ r ⟨rfl, h⟩; exact ⟨rfl, h⟩
  setHal := by
    rintro s _ x ⟨rfl, hv, hr⟩
    refine ⟨rfl, ?_, hr⟩
    rw [← hv, transmitter, transmitter, State.setHal_ch, State.setHal_hal, PerChan.get_set_other _ _ hcd]
  setCc := by rintro s _ p ⟨rfl, h⟩; exact ⟨rfl, h⟩
  drawn := by rintro s _ n ⟨rfl, h⟩; exact ⟨rfl, h⟩
  emit := by rintro s _ e ⟨rfl, h⟩; exact ⟨rfl, h⟩
  refuse := by rintro s _ ⟨rfl, hv, -⟩; exact ⟨rfl, hv, fun _ => rfl⟩
  takeFault := by rintro s _ t _ f ⟨rfl, h⟩ ⟨rfl, -⟩; exact ⟨rfl, h⟩

theorem eq_other_of_ne_some {o : Option Chan} {c : Chan} (ho : o ≠ some c) : ∀ d, o = some d → d = c.other :=
  fun d hd => (Chan.eq_or_other c d).resolve_left fun hdc => ho (hdc ▸ hd)

theorem exec_spares {i : Instr} {c : Chan} {s t : State} (hi : instrChan i ≠ some c) (h : exec i s = .next t) :
    Spares c s t := by
  have hrel := (spares_channelRelation s c.ne_other).exec (eq_other_of_ne_some hi) ⟨rfl, rfl, id⟩
  rw [h] at hrel
  cases hrel with
  | next ht => exact ht.2

theorem environmentStep_spares {y : Choice} {c : Chan} {s t : State} (hy : deviceChan y ≠ some c)
    (h : environmentStep s y = some t) : Spares c s t := by
  have hrel := (spares_channelRelation s c.ne_other).environmentStep (eq_other_of_ne_some hy) ⟨rfl, rfl, id⟩
  rw [h] at hrel
  cases hrel with
  | some ht => exact ht.2

/-- No instruction takes a refusal back: it spares one of the two channels. -/
theorem exec_refused_mono {i : Instr} {s t : State} (h : exec i s = .next t) : s.refused = true → t.refused = true := by
  obtain ⟨d, hd⟩ : ∃ d, instrChan i ≠ some d := by
    by_cases hi : instrChan i = some .c0
    · exact ⟨.c1, by simp [hi]⟩
    · exact ⟨.c0, hi⟩
  exact (exec_spares hd h).2

/-! ### What an instruction does to the transmitter of its channel -/

/-- Everything a transition of `i` can do to the transmitter of channel `c`: nothing, INIT (R212), the facade's write
(R121), and the transmit engine's done values and its write, both for an event that is taken (R171). -/
inductive TransmitterStep (i : Instr) (c : Chan) (refused : Bool) (v w : Transmitter) : Prop where
  | keeps (h : w = v)
  | initialises (huninit : v.init = false) (h : w = { v with init := true, ready := true, txie := true })
  | writes (b : Byte) (hchan : commandChan i = some c) (hinit : v.init = true)
      (h : w = { v with ready := false, tdr := some b })
  | done (hpend : v.txcPend = true) (hrefused : refused = false) (h : w = { v with ready := true, txcPend := false })
  | feeds (b : Byte) (hpend : v.txcPend = true) (h : w = { v with tdr := some b, txcPend := false })

/-- `TransmitterStep` of the transmitters of two states. -/
def Drives (i : Instr) (c : Chan) (s t : State) : Prop :=
  TransmitterStep i c s.refused (transmitter c s) (transmitter c t)

/-- The invariant is kept, where the facade writes to a device without a pending event. -/
theorem TransmitterStep.eager {i : Instr} {c : Chan} {refused : Bool} {v w : Transmitter}
    (h : TransmitterStep i c refused v w) (hv : v.Eager refused)
    (hcall : commandChan i = some c → v.init = true → refused = false → v.txcPend = false) : w.Eager refused := by
  obtain ⟨hquiet, hdrained, hsource⟩ := hv
  cases h with
  | keeps h =>
    subst h
    exact ⟨hquiet, hdrained, hsource⟩
  | initialises huninit h =>
    obtain ⟨htdr, htsr, hpend⟩ := hquiet (.inl huninit)
    subst h
    exact ⟨fun _ => ⟨htdr, htsr, hpend⟩, fun _ _ => ⟨htdr, htsr⟩, rfl⟩
  | writes b hchan hinit h =>
    subst h
    refine ⟨?_, fun hr hpend => absurd (hpend.symm.trans (hcall hchan hinit hr)) nofun, hsource⟩
    rintro (huninit | hready)
    · exact absurd (hinit.symm.trans huninit) nofun
    · cases hready
  | done hpend hrefused h =>
    obtain ⟨htdr, htsr⟩ := hdrained hrefused hpend
    subst h
    exact ⟨fun _ => ⟨htdr, htsr, rfl⟩, fun _ _ => ⟨htdr, htsr⟩, hsource⟩
  | feeds b hpend h =>
    subst h
    refine ⟨fun hor => ?_, fun _ => nofun, hsource⟩
    obtain ⟨-, -, hnone⟩ := hquiet hor
    exact absurd (hpend.symm.trans hnone) nofun

/-! ### The commands' micro-steps -/

section MicroSteps
variable {i : Instr} {c : Chan} {u : State}

theorem drives_of_eq {t : State} (hch : t.ch = u.ch) (hhal : t.hal = u.hal) : Drives i c u t :=
  .keeps (by rw [transmitter, transmitter, hch, hhal])

theorem initStep_drives : Yields (Drives i c u) (initStep c u) := by
  cases hinit : (u.ch.get c).init with
  | true  => rw [initStep_reinit hinit]; exact .stop _
  | false =>
    rw [initStep_default hinit]
    exact .ok (.initialises hinit (by simp [transmitter]))

theorem setcbStep_drives (cb : Option Token) : Yields (Drives i c u) (setcbStep cb c u) :=
  .ok (.keeps (by simp [transmitter]))

theorem setbaudStep_drives (rate : Rate) : Yields (Drives i c u) (setbaudStep rate c u) := by
  unfold setbaudStep
  split
  · exact .stop _
  · exact .ok (.keeps (by simp [transmitter, halSetBaud]))

theorem recvStep_drives : Yields (Drives i c u) (recvStep c u) := by
  by_cases hbyte : 0 < (u.rx.get c).cap ∧ 0 < (u.rx.get c).len
  · rw [recvStep_byte hbyte]
    exact .ok (drives_of_eq rfl rfl)
  · rw [recvStep_noData hbyte]
    exact .ok (drives_of_eq rfl rfl)

theorem hold_drives : Drives i c u (hold c u) := by
  unfold hold
  split
  · exact drives_of_eq u.advance_ch u.advance_hal
  · exact .keeps rfl

variable (hchan : commandChan i = some c) (hinit : (u.ch.get c).init = true)
include hchan hinit

theorem writeAndRespond_drives (b : Byte) : Yields (Drives i c u) (writeAndRespond c b u) := by
  by_cases hover : Overruns c u
  · have ⟨hmodel, hfull⟩ := hover
    rw [writeAndRespond_overrun b hfull hmodel]
    exact .stop _
  · rw [writeAndRespond_ok b (tdr_takes_byte hover)]
    exact .ok (.writes b hchan hinit (by simp [transmitter]))

theorem sendbSteps_drives (b : Byte) (k : Nat) (L : Locals) : Yields (Drives i c u) (sendbSteps b c k L u) := by
  match k with
  | 0     => exact .ok hold_drives
  | 1     => exact writeAndRespond_drives hchan hinit b
  | _ + 2 => exact .stop _

theorem startSending_drives (j : Nat) (L : Locals) : Yields (Drives i c u) (startSending c j L u) := by
  match j with
  | 0 => exact .ok (.keeps (by simp [transmitter]))
  | 1 =>
    by_cases hlen : (u.tx.get c).len = 0
    · rw [startSending, popForSending_empty L hlen]
      exact .stop _
    · rw [startSending, popForSending, popTx_some c u hlen]
      exact .ok (drives_of_eq (by simp) (by simp))
  | 2 => exact .ok hold_drives
  | 3 =>
    simp only [startSending]
    split
    · exact .stop _
    · exact writeAndRespond_drives hchan hinit _
  | _ + 4 => exact .stop _

theorem sendblkSteps_drives (p : List Byte) (k : Nat) (L : Locals) :
    Yields (Drives i c u) (sendblkSteps p c k L u) := by
  unfold sendblkSteps sendblkCheck sendblkPush
  split
  · split
    · exact .ok (drives_of_eq (by simp) (by simp))
    · exact .ok (drives_of_eq rfl rfl)
  · split
    · split
      · exact .stop _
      · exact .ok (drives_of_eq (by simp [pushTx]) (by simp [pushTx]))
    · exact startSending_drives hchan hinit _ L

end MicroSteps

/-! ### The handlers -/

theorem txcHandler_drives {i : Instr} {c : Chan} {s : State} (he : handlerEnabled s c .txc = true) :
    Yields (Drives i c s) (txcHandler c s) := by
  obtain ⟨hpend, -, hrefused⟩ := (handlerEnabled_iff (handlerEnabled_faults he)).1 he
  cases hinit : (s.ch.get c).init with
  | false =>
    rw [txcHandler, if_pos hinit]
    exact .stop _
  | true =>
    by_cases hdone : (s.ch.get c).active = false ∨ (s.tx.get c).len = 0
    · rw [txcHandler_done hinit hdone]
      exact .ok (.done hpend hrefused (by simp [transmitter, doneWith, clearTxcPend]))
    · simp only [not_or, Bool.not_eq_false] at hdone
      obtain ⟨hactive, hlen⟩ := hdone
      rw [txcHandler_next hinit hactive hlen]
      obtain ⟨hw, -⟩ | ⟨hw, -⟩ := halWriteTdr_cases c ((s.tx.get c).front (Config.freeByte s.draws)) .engine
        (engineFetched c s) <;> rw [hw]
      · exact .stop _
      · refine .ok (.feeds ((s.tx.get c).front (Config.freeByte s.draws)) hpend ?_)
        simp [transmitter, engineFetched, clearTxcPend]

theorem transmitter_bufferOrCount (c : Chan) (b : Byte) (s : State) :
    transmitter c (bufferOrCount c b s) = transmitter c s := by
  unfold bufferOrCount pushRx
  cases ((s.rx.get c).pushBack b).1 with
  | true  => rfl
  | false => simp [transmitter]

theorem rxcHandler_drives {i : Instr} {c : Chan} {s : State} : Yields (Drives i c s) (rxcHandler c s) := by
  cases hrdr : (s.hal.get c).rdr with
  | none   => rw [rxcHandler, halReadRdr_none c s hrdr]; exact .stop _
  | some b =>
    simp only [rxcHandler, halReadRdr_some c b s hrdr]
    split
    · exact .stop _
    · split
      · exact .ok (.keeps (by simp [transmitter]))
      · exact .ok (.keeps ((transmitter_bufferOrCount ..).trans (by simp [transmitter])))

/-! ### Every instruction -/

/-- A fault that is recorded spares every transmitter (R240). -/
theorem settle_drives {i : Instr} {c : Chan} {s t : State} {e : Effect State} (he : Yields (Drives i c s) e)
    (h : settle s e = .next t) : Drives i c s t := by
  obtain rfl | ⟨f, tr, -, rfl⟩ := settle_cases h
  · cases he with
    | ok h => exact h
  · exact .keeps rfl

theorem runCommand_drives {i : Instr} {sel : Sel} {needsInit : Bool} {c : Chan} {s t : State}
    {body : Chan → Nat → Locals → State → Effect State} (hc : selChan sel = some c)
    (hbody : ∀ {u} k L, (needsInit = true → (u.ch.get c).init = true) → Yields (Drives i c u) (body c k L u))
    (h : runCommand i sel needsInit body s = .next t) : Drives i c s t := by
  obtain ⟨-, k, L, -, ⟨hnone, -⟩ | ⟨d, hd, hrun⟩⟩ := runCommand_cases h
  · rw [hc] at hnone
    cases hnone
  · obtain rfl : c = d := Option.some.inj (hc.symm.trans hd)
    obtain ⟨-, -, rfl⟩ | ⟨hinit, hsettle⟩ := hrun
    · exact .keeps rfl
    · exact settle_drives (hbody (u := s.setCc (.busy i k L)) k L hinit :) hsettle

theorem runOneStep_drives {i : Instr} {sel : Sel} {needsInit : Bool} {c : Chan} {s t : State}
    {k0 : Chan → State → Effect State} (hc : selChan sel = some c)
    (hk0 : ∀ {u}, Yields (Drives i c u) (k0 c u))
    (h : runCommand i sel needsInit (oneStep k0) s = .next t) : Drives i c s t := by
  refine runCommand_drives hc (fun k L _ => ?_) h
  cases k with
  | zero   => exact hk0
  | succ k => exact .stop _

theorem exec_decodeVector_drives {ev : BitVec 2} {s t : State} (h : exec (decodeVector ev) s = .next t) :
    Drives (decodeVector ev) (vectorChan ev) s t := by
  rw [exec_decodeVector] at h
  obtain ⟨he, hsettle⟩ := takeEvent_cases h
  refine settle_drives ?_ hsettle
  cases hkind : vectorKind ev with
  | rxc => exact rxcHandler_drives
  | txc => exact txcHandler_drives (hkind ▸ he)

/-- What an instruction's transition does to the transmitter of the channel it works on. -/
theorem exec_drives {i : Instr} {c : Chan} {s t : State} (hi : instrChan i = some c) (h : exec i s = .next t) :
    Drives i c s t := by
  cases i with
  | init ch         => exact runOneStep_drives hi initStep_drives h
  | setcb ch cb     => exact runOneStep_drives hi (setcbStep_drives cb) h
  | setbaud ch rate => exact runOneStep_drives hi (setbaudStep_drives rate) h
  | sendb ch b      => exact runCommand_drives hi (fun k L hinit => sendbSteps_drives hi (hinit rfl) b k L) h
  | enqb ch b       => exact runOneStep_drives hi (.ok (.keeps rfl)) h
  | sendblk ch p    => exact runCommand_drives hi (fun k L hinit => sendblkSteps_drives hi (hinit rfl) p k L) h
  | startbuf ch     => exact runCommand_drives hi (fun k L hinit => startSending_drives hi (hinit rfl) k L) h
  | recv ch         => exact runOneStep_drives hi recvStep_drives h
  | flushrx ch      => exact runOneStep_drives hi (.ok (.keeps rfl)) h
  | rxempty ch      => exact runOneStep_drives hi (.ok (.keeps rfl)) h
  | txpend ch       => exact runOneStep_drives hi (.ok (.keeps rfl)) h
  | ovfcnt ch       => exact runOneStep_drives hi (.ok (.keeps rfl)) h
  | rxc0            => cases hi; exact exec_decodeVector_drives (ev := 0) h
  | txc0            => cases hi; exact exec_decodeVector_drives (ev := 1) h
  | rxc1            => cases hi; exact exec_decodeVector_drives (ev := 2) h
  | txc1            => cases hi; exact exec_decodeVector_drives (ev := 3) h
  | reserved w      => cases hi

/-! ### O50: what each choice keeps -/

/-- An instruction keeps the invariant of a channel, if a command that may write its TDR finds no event
pending. -/
theorem exec_eager {i : Instr} {c : Chan} {s t : State} (h : exec i s = .next t)
    (hs : (transmitter c s).Eager s.refused)
    (hcall : commandChan i = some c → (s.ch.get c).init = true → s.refused = false → (s.hal.get c).txcPend = false) :
    (transmitter c t).Eager t.refused := by
  by_cases hi : instrChan i = some c
  · have hstep : TransmitterStep .. := exec_drives hi h
    exact (hstep.eager hs hcall).mono (exec_refused_mono h)
  · exact (exec_spares hi h).eager hs

/-- With no handler enabled, an initialised channel has no transmit-complete event pending (R234, R281). -/
theorem txcPend_of_no_handler {c : Chan} {s : State} (hf : s.faults = none) (hno : anyHandlerEnabled s = false)
    (hs : (transmitter c s).Eager s.refused) (hinit : (s.ch.get c).init = true) (hr : s.refused = false) :
    (s.hal.get c).txcPend = false := by
  have hdisabled : ¬ handlerEnabled s c .txc = true := by
    simp only [anyHandlerEnabled, Bool.or_eq_false_iff] at hno
    obtain ⟨⟨⟨-, h0⟩, -⟩, h1⟩ := hno
    cases c <;> simp [h0, h1]
  rw [handlerEnabled_iff hf] at hdisabled
  exact Bool.eq_false_iff.2 fun hpend => hdisabled ⟨hpend, hs.source.trans hinit, hr⟩

/-- MOVE empties a full TDR into the TSR (R251). -/
theorem Transmitter.Eager.move {r : Bool} {v : Transmitter} {b : Byte} (h : v.Eager r) (htdr : v.tdr = some b) :
    ({ v with tsr := some b, tdr := none } : Transmitter).Eager r := by
  obtain ⟨hquiet, hdrained, hsource⟩ := h
  refine ⟨fun hor => ?_, fun hr hpend => ?_, hsource⟩
  · obtain ⟨hnone, -⟩ := hquiet hor
    cases htdr.symm.trans hnone
  · obtain ⟨hnone, -⟩ := hdrained hr hpend
    cases htdr.symm.trans hnone

/-- SHIFT empties the TSR, and raises the event over an empty TDR (R252). -/
theorem Transmitter.Eager.shift {r : Bool} {v : Transmitter} {b : Byte} (h : v.Eager r) (htsr : v.tsr = some b) :
    ({ v with tsr := none, txcPend := v.tdr.isNone || v.txcPend } : Transmitter).Eager r := by
  obtain ⟨hquiet, hdrained, hsource⟩ := h
  refine ⟨fun hor => ?_, fun hr hpend => ?_, hsource⟩
  · obtain ⟨-, hnone, -⟩ := hquiet hor
    cases htsr.symm.trans hnone
  · obtain htdr | hpend := Bool.or_eq_true_iff.1 hpend
    · exact ⟨Option.isNone_iff_eq_none.1 htdr, rfl⟩
    · obtain ⟨-, hnone⟩ := hdrained hr hpend
      cases htsr.symm.trans hnone

/-- In the reference model, where nothing is injected, the steps of a device keep its channel's invariant. -/
theorem environmentStep_eager_own {x : Choice} {c : Chan} {s t : State} (hmodel : s.cfg.envModel = .reference)
    (hx : deviceChan x = some c) (h : environmentStep s x = some t) (hs : (transmitter c s).Eager s.refused) :
    (transmitter c t).Eager t.refused := by
  cases x with
  | move d =>
    cases hx
    simp only [environmentStep, moveStep] at h
    split at h <;> cases h
    rename_i b htdr htsr
    simpa [transmitter] using hs.move htdr
  | shift d =>
    cases hx
    simp only [environmentStep, shiftStep] at h
    split at h <;> cases h
    rename_i b htsr
    simpa [transmitter] using hs.shift htsr
  | arrive d b =>
    cases hx
    cases h
    unfold arriveStep
    split <;> simpa [transmitter] using hs
  | injTxc d    => simp [environmentStep, injTxcStep, hmodel] at h
  | injRx d b   => simp [environmentStep, injRxStep, hmodel] at h
  | call        => cases hx
  | event ev    => cases hx
  | reset       => cases hx
  | forbidden y => cases hx

theorem environmentStep_eager {x : Choice} {c : Chan} {s t : State} (hmodel : s.cfg.envModel = .reference)
    (h : environmentStep s x = some t) (hs : (transmitter c s).Eager s.refused) :
    (transmitter c t).Eager t.refused := by
  by_cases hx : deviceChan x = some c
  · exact environmentStep_eager_own hmodel hx h hs
  · exact (environmentStep_spares hx h).eager hs

/-- Every eager choice but a hardware reset keeps the invariant of a channel. -/
theorem choiceStep_eager {x : Choice} {c : Chan} {s t : State} (hf : s.faults = none)
    (hmodel : s.cfg.envModel = .reference) (hx : x ≠ .reset) (heager : eagerChoice x s = true)
    (h : choiceStep x s = .next t) (hs : (transmitter c s).Eager s.refused) : (transmitter c t).Eager t.refused := by
  obtain rfl | ⟨rfl, i, u, hu, ht⟩ | ⟨-, u, hu, rfl⟩ | ⟨ev, -, -, ht⟩ | ht := choiceStep_cases hx h
  · exact hs
  · have hno : anyHandlerEnabled s = false := by simpa [eagerChoice] using heager
    have hcall := txcPend_of_no_handler hf hno hs
    obtain ⟨_, _, _, rfl⟩ | ⟨_, _, ds, _, _, rfl⟩ := fetchCall_run_cases hu
    · exact exec_eager ht hs fun _ => hcall
    · exact exec_eager ht (s := { s with cmds := ds }) hs fun _ => hcall
  · obtain ⟨_, _, _, _, _, _, rfl⟩ := fetchCall_mismatched_cases hu
    exact hs.mono fun _ => rfl
  · refine exec_eager ht hs fun hchan => ?_
    obtain ⟨hnone, -⟩ := decodeVector_no_command ev
    rw [commandChan, hnone] at hchan
    cases hchan
  · exact environmentStep_eager hmodel ht hs

/-- Settles O50, channel by channel: a hardware reset establishes the invariant, and every eager choice keeps it. -/
theorem eagerStepsKeepReadyMeaningQuiet : Obligations.EagerStepsKeepReadyMeaningQuiet := by
  intro s t hmodel hs heager h
  obtain ⟨rest, -, rfl⟩ | ⟨-, -, rfl⟩ | ⟨hf, x, rest, hsched, hx, ht⟩ := step_cases h
  · exact resetIn_eagerInv s.cfg _
  · exact hs
  · refine eagerInv_iff.2 fun c => ?_
    exact choiceStep_eager (s := { s with sched := rest }) hf hmodel hx (heager x rest hsched) ht (eagerInv_iff.1 hs c)

end Sys2Proof.Machine
end
